-- ==== Sys2Proof/Word.lean ====
section
/-! DEFINITION. The words of the block: bytes, positions, stimulus words (spec 00_scope.md R9, 30_encoding.md R49 and
R60). -/

namespace Sys2Proof

/-- A byte, 0 to 255; bit 0 is the least significant (R9). Character codes, font indices, patterns, the polarity mask
and the two bytes of a frame are bytes (R49). -/
abbrev Byte := BitVec 8

/-- A position: 2 bits, values 0 to 3 (R49); also the width of the RefreshCursor (R17). -/
abbrev Position := BitVec 2

/-- A stimulus word: 16 bits (R60). -/
abbrev Word := BitVec 16

end Sys2Proof
end

