-- ==== Sys2Proof/Config.lean ====
section
/-! DEFINITION. The implementation parameters of rule R7 (00_scope.md): the fixed ones as numbers, the OPEN ones as
opaque constants of which nothing can be proved but the constraints the spec puts on them, and the unknown power-up
values of rule R29 (10_state.md) as a free value. -/

namespace Sys2Proof

/-- REFRESH_PERIOD_US, the fixed period of the timer in microseconds (R129; decision D15). -/
def Config.refreshPeriodUs : Nat := 4000

/-- The three constraints the spec puts on the 65 font bytes: entry 0 is blank (R69), entry 0x10 is the digit 0's
pattern 0xFC (R70), and the bytes 0x92 and 0x38 are each the value of at least two entries (R71). -/
abbrev FontLegal (f : Vector Byte 65) : Prop :=
  f[0] = 0x00#8 ∧ f[16] = 0xFC#8 ∧ 2 ≤ f.toList.count 0x92#8 ∧ 2 ≤ f.toList.count 0x38#8

/-- A font that meets the constraints. The default cells say nothing of the hardware: they only show Lean that the
constraints can be met, and no proof can reach them through the opaque `Config.font`. -/
structure FontTable where
  cells : Vector Byte 65 :=
    ((((((Vector.replicate 65 0x00#8).set 16 0xFC#8).set 1 0x92#8).set 2 0x92#8).set 3 0x38#8).set 4 0x38#8)
  legal : FontLegal cells := by decide
deriving Inhabited

/-- The OPEN parameter FONT (R7, R68; decision D19): 65 bytes of which only the constraints are known. FREE VALUE,
log 5. -/
opaque Config.font : FontTable

/-- An order of the four slots: a permutation of (0,1,2,3). The default only shows that there is one. -/
structure SlotOrder where
  order : List Position := [0, 1, 2, 3]
  perm : order.Perm [0, 1, 2, 3] := by decide
deriving Inhabited

/-- The OPEN parameter CLEAR_ORDER (R7, R109; decision D11): the order of CLEAR's four slot writes. FREE VALUE,
log 6. -/
opaque Config.clearOrder : SlotOrder

/-- The OPEN parameter DIGIT_WIRING (R7; decision D18): the physical digit each position's enable line enables.
FREE VALUE, log 7. -/
opaque Config.digitWiring : Position → Fin 4

/-- The OPEN parameter SEGMENT_WIRING (R7; decision D18): the physical segment each pattern bit lights. FREE VALUE,
log 7. -/
opaque Config.segmentWiring : Fin 8 → Fin 8

/-- Which names there are beside the three of `PinId`: the OPEN type of pin identifiers (R7; decision D20), given as a
predicate of which nothing can be proved. FREE VALUE, log 4. -/
opaque Config.isOtherPin : Nat → Bool

/-- A pin identifier (R20, R79; decision D20): the OPEN type PinId of rule R7, with equality and nothing else. CONFIGURE
needs three distinct identifiers, so the type has three elements that differ, here called `p0`, `p1` and `p2`; how many
others there are, none included, is unknown. No element is a number, and no operation tells one from another, as the
statement OnlyEqualityOfPinsMatters says. (DESIGN CHOICE, log 4.) -/
inductive PinId where
  | p0
  | p1
  | p2
  | other (k : { k : Nat // Config.isOtherPin k = true })
deriving DecidableEq, Repr, Inhabited

/-- Three pin identifiers, pairwise distinct as R79 requires. The default only shows that there are such. -/
structure WordPins where
  latch : PinId := .p0
  clock : PinId := .p1
  data  : PinId := .p2
  distinct : latch ≠ clock ∧ latch ≠ data ∧ clock ≠ data := by decide
deriving Inhabited

/-- The OPEN parameters LATCH_PIN, CLOCK_PIN and DATA_PIN (R61; decision D20): the pins of a CONFIGURE word. FREE VALUE,
log 4. -/
opaque Config.wordPins : WordPins

/-- Levels of the three output lines (R26): `true` is HIGH (1), `false` is LOW (0). -/
structure Levels where
  latch : Bool
  sclk  : Bool
  sdata : Bool
deriving DecidableEq, Repr, Inhabited

/-- The OPEN parameter PIN_IDLE (R7, R26; decision D7): the levels of the lines from CONFIGURE until the first RENDER,
free afresh after each reset (the argument counts resets). FREE VALUE, log 3. -/
opaque Config.pinIdle : Nat → Levels

/-- What the registers without a reset value hold after a reset (R29: unknown). -/
structure PowerUp where
  buf   : Vector Byte 4
  cur   : Position
  mask  : Byte
  latch : PinId
  clock : PinId
  data  : PinId
  sr    : BitVec 16
  q     : BitVec 16
deriving DecidableEq, Repr, Inhabited

/-- The unknown values after the n-th reset (R29, R141: a model must not assume zero). FREE VALUE, log 2. -/
opaque Config.powerUp : Nat → PowerUp

end Sys2Proof
end

