-- ==== Sys2Proof/Syntax.lean ====
section
/-! DEFINITION. The nine operations of the block (00_scope.md R8; the rows of opcode_table.json), one constructor
each, with the operands and the operand defaults of the source's signatures (30_encoding.md R58). -/

namespace Sys2Proof

/-- A pin operand of CONFIGURE. The three names are the parameters LATCH_PIN, CLOCK_PIN and DATA_PIN of rule R61, whose
values are `Config.wordPins`; a call gives its pins itself (R58). (DESIGN CHOICE, log 4.) -/
inductive PinOperand where
  /-- the parameter LATCH_PIN -/
  | latchPin
  /-- the parameter CLOCK_PIN -/
  | clockPin
  /-- the parameter DATA_PIN -/
  | dataPin
  /-- a pin identifier given in a call -/
  | pin (p : PinId)
deriving DecidableEq, Repr

/-- The operations. Positions are natural numbers and the two SCROLL numbers integers, so that the values the spec
refuses (R107, R94, R117) can be written and are refused. (DESIGN CHOICE, log 18.) -/
inductive Instr where
  /-- CONFIGURE l, c, d, anode (R74); `anode` omitted means common cathode (R80) -/
  | configure (latch clock data : PinOperand) (anode : Bool := false)
  /-- SETCHAR p, ch (R103) -/
  | setchar (position : Nat) (ch : Byte)
  /-- CLEAR (R108) -/
  | clear
  /-- TICK (R95), the timer's refresh step -/
  | tick
  /-- SETSTRING text (R110) -/
  | setstring (text : List Byte)
  /-- SCROLL text, delay, stride (R114); defaults 200 and 1 (R58) -/
  | scroll (text : List Byte) (delay : Int := 200) (stride : Int := 1)
  /-- LOOKUP code (R67), internal -/
  | lookup (code : Byte)
  /-- RENDER pattern, position (R82), internal -/
  | render (pattern : Byte) (position : Nat)
  /-- SHIFTOUT dataPin, clockPin, v (R86), internal -/
  | shiftout (data clock : PinId) (v : Byte)
deriving DecidableEq, Repr

end Sys2Proof
end

