-- ==== Sys2Proof/Machine/State.lean ====
section
/-! DEFINITION. The state of the block (10_state.md R13, R29), the observer's trace (00_scope.md R11), the two
execution contexts as data (60_exceptions.md R135; 20_memory.md R40), the reasons a step can stop, and reset. -/

namespace Sys2Proof.Machine

open Sys2Proof

/-- MODE (R21). -/
inductive Mode where
  | unconfigured
  | running
deriving DecidableEq, Repr

/-- The configuration registers CFG (R19, R20). -/
structure DisplayConfig where
  /-- the polarity mask, 0xFF for common anode and 0x00 for common cathode once configured -/
  mask  : Byte
  latch : PinId
  clock : PinId
  data  : PinId
deriving DecidableEq, Repr

/-- The external chain of two 8-bit shift registers (R27): 16 shift stages and 16 latched outputs. -/
structure Chain where
  sr : BitVec 16
  q  : BitVec 16
deriving DecidableEq, Repr

/-- An output event (R11), one per use of an external collaborator. -/
inductive Event where
  /-- MODE_OUT(pin): setPinMode(pin, OUTPUT) -/
  | modeOut (pin : PinId)
  /-- W(pin, level): writePin(pin, HIGH or LOW) -/
  | write (pin : PinId) (level : Bool)
  /-- SHIFT(dataPin, clockPin, v): shiftOutByte(dataPin, clockPin, LSB_FIRST, v) -/
  | shift (data clock : PinId) (v : Byte)
  /-- TIMER_INIT: initTimer() -/
  | timerInit
  /-- TIMER_ATTACH(period): attachPeriodicCallback(refresh step, period) -/
  | timerAttach (periodUs : Nat)
  /-- SLEEP(ms): sleepMilliseconds(ms) -/
  | sleep (ms : Nat)
deriving DecidableEq, Repr

/-- A primitive action of the main context that an operation in progress still has to do (R40, R59). -/
inductive Action where
  /-- one indivisible slot write BUF[p] <- v (R38) -/
  | store (p : Position) (v : Byte)
  /-- one SLEEP(ms) of SCROLL (R116) -/
  | sleep (ms : Nat)
deriving DecidableEq, Repr

/-- What stands next at the host command port (decision D1): a stimulus word (R60), or a call of an operation as a
term, which R60 lets a model use and which alone can carry SETSTRING, SCROLL and pins of the host's choice. -/
inductive Command where
  | word (w : Word)
  | call (i : Instr)
deriving DecidableEq, Repr

/-- Which agent acts next: the main context, the timer (an expiry that preempts it, R40, R132), or the reset input
(R141). -/
inductive Turn where
  | main
  | tick
  | reset
deriving DecidableEq, Repr

/-- The block raises no exception and has no fault path (R121; 93_implementation_defined.md: "No case is treated as
fault or stuck"), so there is no reason to fault: no constructor. -/
inductive Fault
deriving DecidableEq, Repr

/-- Why the model gives an operation no meaning (R10 `refuse`). A refusal is the spec's treatment of what the source
calls undefined or gives no meaning; each is safe, since no claim is made of the run after it. -/
inductive Refusal where
  /-- exec's arm of an operation without a meaning; raised by no arm of this model (safe) -/
  | notModelled (mnemonic : String)
  /-- CONFIGURE while MODE = RUNNING: "behavior is undefined" (R78); raised by CONFIGURE (safe) -/
  | configureTwice
  /-- CONFIGURE with two roles on one pin (R79); raised by CONFIGURE (safe) -/
  | pinsNotDistinct
  /-- an operation before CONFIGURE: "behavior is undefined" (R78, R142); raised by SETCHAR, CLEAR, SETSTRING, SCROLL,
  RENDER, SHIFTOUT (safe) -/
  | notConfigured
  /-- TICK while no timer is attached (R101; 95_test_vectors.md P6); raised by TICK (safe) -/
  | timerNotAttached
  /-- a position outside 0 to 3 (R107, R94); raised by SETCHAR, RENDER (safe) -/
  | positionOutOfRange
  /-- SETSTRING of fewer than 4 bytes (R112); raised by SETSTRING (safe) -/
  | textTooShort
  /-- SCROLL with a stride below 1 or a negative delay (R117); raised by SCROLL (safe) -/
  | badScrollOperand
  /-- a font index outside 0 to 64 (R64, R73); raised by LOOKUP, and by TICK on a slot no operation can have
  written (safe) -/
  | fontIndexOutOfRange
  /-- a stimulus word that matches no row (R62); raised by the step (safe) -/
  | reservedStimulus
  /-- a host call of TICK or of an internal operation: "not separately callable" (R95, R61); raised by the step
  (safe) -/
  | notHostCallable
deriving DecidableEq, Repr

/-- The state: the record of R13, the timer's attachment (R29), the observer's trace (R11), and the model's own fields
that say what the two contexts do next. -/
structure State where
  /-- MODE (R21) -/
  mode : Mode
  /-- BUF[0..3], the DisplayBuffer: font indices (R14); log 19, log 25 -/
  buf : Vector Byte 4
  /-- CUR, the RefreshCursor (R17) -/
  cur : Position
  /-- CFG, the configuration registers (R19, R20) -/
  cfg : DisplayConfig
  /-- LATCH, SCLK, SDATA (R26); none while the lines are not driven (R29); log 3 -/
  lines : Option Levels
  /-- FONT[0..64], the SegmentFont ROM (R23); log 5, log 19 -/
  font : Vector Byte 65
  /-- SR[15:0] and Q[15:0], the external chain (R27) -/
  chain : Chain
  /-- the period the timer is attached with; none while it is not attached (R29, R125); log 17 -/
  timer : Option Nat
  /-- OUT, the trace of output events (R11): the record an observer keeps -/
  out : List Event
  /-- the model's own: what the last LOOKUP returned, as an observer of LOOKUP sees it (R67); log 12 -/
  lookedUp : Option Byte
  /-- the model's own: where the main context stands inside an operation (R132), as the actions left; log 8 -/
  pending : List Action
  /-- the model's own: the commands the host will issue, in program order (D1); log 9 -/
  port : List Command
  /-- the model's own: who acts in the coming steps (R40, R101); log 9 -/
  turns : List Turn
  /-- the model's own: how many resets there have been, the argument of the free values; log 2 -/
  resets : Nat
deriving DecidableEq, Repr

/-- The state the n-th reset leaves (R29, R141): MODE unconfigured, the timer not attached, the lines not driven, the
trace empty, the font as it is (R72), every other register of the spec at an unknown value. -/
def State.afterReset (n : Nat) (font : Vector Byte 65) (port : List Command) (turns : List Turn) : State where
  mode     := .unconfigured
  buf      := (Config.powerUp n).buf
  cur      := (Config.powerUp n).cur
  cfg      :=
    { mask  := (Config.powerUp n).mask
      latch := (Config.powerUp n).latch
      clock := (Config.powerUp n).clock
      data  := (Config.powerUp n).data }
  lines    := none
  font     := font
  chain    := { sr := (Config.powerUp n).sr, q := (Config.powerUp n).q }
  timer    := none
  out      := []
  lookedUp := none
  pending  := []
  port     := port
  turns    := turns
  resets   := n

/-- The machine right after power-on (R29), with nothing at the command port. (DESIGN CHOICE, log 2, log 22.) -/
def State.reset : State := State.afterReset 0 Config.font.cells [] []

end Sys2Proof.Machine
end

