-- ==== Sys2Proof/Machine/Flags.lean ====
section
/-! DEFINITION. The block has no status flags, condition codes or predicates (10_state.md R24). Its only one-bit
condition is MODE (R21); the checks of MODE and of the timer's attachment stand here. -/

namespace Sys2Proof.Machine

open Sys2Proof

/-- MODE = RUNNING (R21). -/
def State.isRunning (s : State) : Bool := decide (s.mode = .running)

/-- The timer is attached, so that it can fire (R101, R125). -/
def State.timerAttached (s : State) : Bool := s.timer.isSome

/-- The guard `if MODE != RUNNING: refuse(r)` that opens the operations (R103, R108, R110, R114, R142). -/
def State.whenRunning (s : State) (r : Refusal) (go : Host.Outcome State Fault Refusal) :
    Host.Outcome State Fault Refusal :=
  if s.isRunning then go else .refused r

end Sys2Proof.Machine
end

