-- ==== Sys2Proof/Machine/Operands.lean ====
section
/-! DEFINITION. Operand assembly and all the arithmetic of the block (30_encoding.md R50 to R57; 44_text_renderer.md
R111, R114): the class of a character, the two frame bytes, the range checks of operands, and the expansions of the
operations that are groups of primitive actions (R59). -/

namespace Sys2Proof.Machine

open Sys2Proof

/-- A position operand inside 0 to 3 (R107, R94). -/
def positionOperand (p : Nat) : Option Position := if p ≤ 3 then some (BitVec.ofNat 2 p) else none

/-- `idx(ch)`, the font index of a character code: direct, lowercase, anything else (R50). -/
def fontIndex (ch : Byte) : Byte :=
  if 0x20#8 ≤ ch ∧ ch ≤ 0x60#8 then ch - 0x20#8
  else if 0x61#8 ≤ ch ∧ ch ≤ 0x7A#8 then ch - 0x40#8
  else 0x00#8

/-- The font index of a LOOKUP code, "constrained to 0x20 ≤ code ≤ 0x60" (R67, R73). -/
def lookupIndex (code : Byte) : Option Byte :=
  if 0x20#8 ≤ code ∧ code ≤ 0x60#8 then some (code - 0x20#8) else none

/-- The polarity mask of the anode flag (R76). -/
def polarityMask (anode : Bool) : Byte := if anode then 0xFF#8 else 0x00#8

/-- The digit-select byte `(mask xor 0x7F) >> position` (R54). -/
def digitSelect (mask : Byte) (p : Position) : Byte := (mask ^^^ 0x7F#8) >>> p.toNat

/-- The segment byte `mask xor pattern` (R55). -/
def segmentByte (mask pattern : Byte) : Byte := mask ^^^ pattern

/-- The pin identifier of a pin operand: the parameter's value (R61), or the one given. -/
def pinValue : PinOperand → PinId
  | .latchPin => Config.wordPins.latch
  | .clockPin => Config.wordPins.clock
  | .dataPin  => Config.wordPins.data
  | .pin p    => p

/-- The two operands name one pin. Of the parameters only their constraint is known: different names, different pins. -/
def samePin : PinOperand → PinOperand → Bool
  | .pin p, b => decide (p = pinValue b)
  | a, .pin p => decide (pinValue a = p)
  | a, b      => decide (a = b)

/-- The three pins of CONFIGURE are pairwise distinct (R79). -/
def pinsDistinct (l c d : PinOperand) : Bool := !samePin l c && !samePin l d && !samePin c d

/-- The four slot writes of a SETSTRING of the window a, b, c, d: positions 3, 2, 1, 0 in this order, position p from
`text[3 - p]` (R110, R111). -/
def windowActions (a b c d : Byte) : List Action :=
  [.store 3 (fontIndex a), .store 2 (fontIndex b), .store 1 (fontIndex c), .store 0 (fontIndex d)]

/-- The expansion of SETSTRING (R59, R110): only the first four bytes count; none if there are fewer (R112). -/
def setstringActions : List Byte → Option (List Action)
  | a :: b :: c :: d :: _ => some (windowActions a b c d)
  | _ => none

/-- The loop of SCROLL from an offset on (R114): while `offset + 3 < len(text)`, one SETSTRING of the window at the
offset, one SLEEP, and the offset advanced by the stride. `fuel` bounds the number of steps. -/
def scrollFrom (text : List Byte) (ms stride : Nat) : Nat → Nat → List Action
  | 0, _ => []
  | fuel + 1, offset =>
    match setstringActions (text.drop offset) with
    | some window => window ++ .sleep ms :: scrollFrom text ms stride fuel (offset + stride)
    | none => []

/-- The expansion of SCROLL (R59, R114): from offset 0. With a stride of at least 1 there are fewer steps than the text
has bytes (R115). -/
def scrollActions (text : List Byte) (ms stride : Nat) : List Action :=
  scrollFrom text ms stride text.length 0

/-- The expansion of CLEAR (R59, R108): one write of the blank index to each slot, in the given order. -/
def clearActions (order : List Position) : List Action := order.map (.store · 0x00#8)

end Sys2Proof.Machine
end

