-- ==== Sys2Proof/Machine/Ops.lean ====
section
/-! DEFINITION. The named operations over the state: slots, font, pins and the external chain, the trace, one frame,
the actions of the main context, the timer interrupt's entry and return, reset. -/

namespace Sys2Proof.Machine

open Sys2Proof

/-- BUF[p] (R10). -/
def State.slot (s : State) (p : Position) : Byte := s.buf[p.toNat]

/-- BUF[p] <- v, one indivisible byte write (R38). -/
def State.setSlot (s : State) (p : Position) (v : Byte) : State := { s with buf := s.buf.set p.toNat v }

/-- FONT[i] (R10, R67); an index outside 0 to 64 has no cell (R64). -/
def State.fontAt (s : State) (i : Byte) : Option Byte := s.font[i.toNat]?

/-- The observer's record of what a LOOKUP returned (log 12). -/
def State.recordLookup (s : State) (pattern : Byte) : State := { s with lookedUp := some pattern }

/-- The line of `pin` takes `level`, the other lines keep theirs (R26, R88). (DEDUCED, log 21; log 20.) -/
def driveLine (lv : Levels) (cfg : DisplayConfig) (pin : PinId) (level : Bool) : Levels where
  latch := if pin = cfg.latch then level else lv.latch
  sclk  := if pin = cfg.clock then level else lv.sclk
  sdata := if pin = cfg.data then level else lv.sdata

/-- One shift of the chain: every stage takes the one before it and stage 0 the data line (R44). -/
def Chain.shiftIn (c : Chain) (bit : Bool) : Chain :=
  { c with sr := (c.sr <<< 1) ||| (BitVec.ofBool bit).setWidth 16 }

/-- What the chain does when the levels of the lines change: a rise of the clock shifts (R44, R87), a rise of the latch
copies the stages to the outputs (R45). (PRESUMED, log 14.) -/
def Chain.follow (c : Chain) (before after : Levels) : Chain :=
  let shifted := if !before.sclk && after.sclk then c.shiftIn after.sdata else c
  if !before.latch && after.latch then { shifted with q := shifted.sr } else shifted

/-- One `writePin(pin, level)` (R88): the line moves and the chain follows it. Lines that are not driven stay so. -/
def State.writePin (s : State) (pin : PinId) (level : Bool) : State :=
  match s.lines with
  | none => s
  | some lv =>
    { s with lines := some (driveLine lv s.cfg pin level),
             chain := s.chain.follow lv (driveLine lv s.cfg pin level) }

/-- The bits of a byte in the order they travel: bit 0 first (R34). -/
def lsbFirst (v : Byte) : List Bool :=
  [v.getLsbD 0, v.getLsbD 1, v.getLsbD 2, v.getLsbD 3, v.getLsbD 4, v.getLsbD 5, v.getLsbD 6, v.getLsbD 7]

/-- The pin writes of one shifted bit: data, clock high, clock low (R87). (PRESUMED, log 13.) -/
def bitWrites (data clock : PinId) (bit : Bool) : List (PinId × Bool) :=
  [(data, bit), (clock, true), (clock, false)]

/-- The pin writes an event stands for (R11, R87): itself, 24 for a SHIFT, none for the others. -/
def Event.pinWrites : Event → List (PinId × Bool)
  | .modeOut _       => []
  | .write pin level => [(pin, level)]
  | .shift d c v     => (lsbFirst v).flatMap (bitWrites d c)
  | .timerInit       => []
  | .timerAttach _   => []
  | .sleep _         => []

/-- `emit(e)` (R11): the event is appended to the trace and its pin writes happen, in order. -/
def State.emit (s : State) (e : Event) : State :=
  let s' := e.pinWrites.foldl (fun t w => t.writePin w.1 w.2) s
  { s' with out := s'.out ++ [e] }

/-- SHIFTOUT dataPin, clockPin, v (R86): one SHIFT event. -/
def State.shiftOut (s : State) (data clock : PinId) (v : Byte) : State := s.emit (.shift data clock v)

/-- RENDER's four steps (R82): latch low, digit-select byte, segment byte, latch high. -/
def State.sendFrame (s : State) (pattern : Byte) (p : Position) : State :=
  (((s.emit (.write s.cfg.latch false)).shiftOut s.cfg.data s.cfg.clock (digitSelect s.cfg.mask p)).shiftOut
    s.cfg.data s.cfg.clock (segmentByte s.cfg.mask pattern)).emit (.write s.cfg.latch true)

/-- CUR <- (CUR + 1) mod 4 (R97). -/
def State.advanceCursor (s : State) : State := { s with cur := s.cur + 1 }

/-- The main context issues an operation that is a group of primitive actions (R59): they come before whatever it still
had to do. (Log 8.) -/
def State.issue (s : State) (actions : List Action) : State := { s with pending := actions ++ s.pending }

/-- One primitive action of the main context (R40): a slot write, or the SLEEP event. -/
def State.perform (s : State) : Action → State
  | .store p v => s.setSlot p v
  | .sleep ms  => s.emit (.sleep ms)

/-- Entry of the one interrupt (R132): the main context is suspended where it stands, and "nothing of the block's state
is saved or changed by the entry itself". -/
def State.interruptEntry (s : State) : State := s

/-- Return from the interrupt (R133): "Nothing is restored, because nothing was saved." -/
def State.interruptReturn (s : State) : State := s

/-- The reset input (R141): as power-on, but for the font, which nothing changes (R72), the commands still to come and
the turns. (Log 11.) -/
def State.resetInput (s : State) : State := State.afterReset (s.resets + 1) s.font s.port s.turns

end Sys2Proof.Machine
end

