-- ==== Sys2Proof/Machine/Configure.lean ====
section
/-! DEFINITION. CONFIGURE (41_configure.md R74 to R81). -/

namespace Sys2Proof.Machine

open Sys2Proof

/-- Step 1 of CONFIGURE (R74): the three pins become outputs; their lines are driven from here on, at levels the source
leaves unknown (R26, R81: PIN_IDLE). -/
def State.pinsToOutput (s : State) (l c d : PinId) : State :=
  (((({ s with lines := some (Config.pinIdle s.resets) } : State).emit (.modeOut l)).emit (.modeOut c)).emit
    (.modeOut d))

/-- Steps 1 and 2 store the pins and the mask (R74, R76). -/
def State.setConfig (s : State) (l c d : PinId) (anode : Bool) : State :=
  { s with cfg := { mask := polarityMask anode, latch := l, clock := c, data := d } }

/-- Steps 3 and 4 (R74): the four slots blank, the cursor 0. -/
def State.clearForBoot (s : State) : State := { s with buf := #v[0, 0, 0, 0], cur := 0 }

/-- Step 5 and the end of CONFIGURE (R74, R77): the timer is initialised and, last of all, attached. -/
def State.attachTimer (s : State) : State :=
  { (s.emit .timerInit).emit (.timerAttach Config.refreshPeriodUs) with
    timer := some Config.refreshPeriodUs, mode := .running }

/-- CONFIGURE l, c, d, anode (R74): one atomic action (R77), refused the second time (R78) and for pins that are not
distinct (R79). -/
def execConfigure (l c d : PinOperand) (anode : Bool) (s : State) : Host.Outcome State Fault Refusal :=
  if s.isRunning then .refused .configureTwice
  else if pinsDistinct l c d then
    .next ((s.pinsToOutput (pinValue l) (pinValue c) (pinValue d)).setConfig (pinValue l) (pinValue c) (pinValue d)
      anode).clearForBoot.attachTimer
  else .refused .pinsNotDistinct

end Sys2Proof.Machine
end

