-- ==== Sys2Proof/Machine/Font.lean ====
section
/-! DEFINITION. LOOKUP (40_font_rom.md R67, R73). -/

namespace Sys2Proof.Machine

open Sys2Proof

/-- LOOKUP code (R67): FONT[code - 0x20]; it writes no state of the block, and the returned pattern is recorded as an
observer sees it (log 12). A code outside the table is refused (R73). It needs no configured block: the font is the
same before and after CONFIGURE (R23) and LOOKUP has "no failure path" (log 15). -/
def execLookup (code : Byte) (s : State) : Host.Outcome State Fault Refusal :=
  match lookupIndex code with
  | none => .refused .fontIndexOutOfRange
  | some i =>
    match s.fontAt i with
    | none => .refused .fontIndexOutOfRange
    | some pattern => .next (s.recordLookup pattern)

end Sys2Proof.Machine
end

