-- ==== Sys2Proof/Machine/Refresh.lean ====
section
/-! DEFINITION. TICK, the refresh step run by the timer interrupt (43_refresh_scheduler.md R95 to R102;
60_exceptions.md R132 to R134). -/

namespace Sys2Proof.Machine

open Sys2Proof

/-- The body of TICK once the pattern is known (R95): RENDER it at the cursor, then advance the cursor. -/
def State.refresh (s : State) (pattern : Byte) : State :=
  ((s.recordLookup pattern).sendFrame pattern s.cur).advanceCursor

/-- TICK (R95): interrupt entry, BUF[CUR] read once, LOOKUP, RENDER, the cursor advanced, interrupt return; atomic
(R134). There is no TICK before CONFIGURE (R101). A slot above 64, which no operation writes (R15), is refused by
LOOKUP (R73). (DEDUCED, log 16; log 20.) -/
def execTick (s : State) : Host.Outcome State Fault Refusal :=
  s.whenRunning .timerNotAttached <|
    match s.interruptEntry.fontAt (s.interruptEntry.slot s.interruptEntry.cur) with
    | none => .refused .fontIndexOutOfRange
    | some pattern => .next (s.interruptEntry.refresh pattern).interruptReturn

end Sys2Proof.Machine
end

