-- ==== Sys2Proof/Machine/Text.lean ====
section
/-! DEFINITION. SETCHAR, CLEAR, SETSTRING, SCROLL (44_text_renderer.md R103 to R119). SETCHAR is one slot write; the
other three are groups of primitive actions, which the main context does one at a time (Step.lean), so that ticks may
fall between any two of them (R109, R113, R116). -/

namespace Sys2Proof.Machine

open Sys2Proof

/-- SETCHAR p, ch (R103): BUF[p] <- idx(ch). -/
def execSetchar (position : Nat) (ch : Byte) (s : State) : Host.Outcome State Fault Refusal :=
  s.whenRunning .notConfigured <|
    match positionOperand position with
    | none   => .refused .positionOutOfRange
    | some p => .next (s.setSlot p (fontIndex ch))

/-- CLEAR (R108): four slot writes of 0x00 in the open order CLEAR_ORDER. -/
def execClear (s : State) : Host.Outcome State Fault Refusal :=
  s.whenRunning .notConfigured (.next (s.issue (clearActions Config.clearOrder.order)))

/-- SETSTRING text (R110): four SETCHARs; a text of fewer than 4 bytes is refused (R112). -/
def execSetstring (text : List Byte) (s : State) : Host.Outcome State Fault Refusal :=
  s.whenRunning .notConfigured <|
    match setstringActions text with
    | none         => .refused .textTooShort
    | some actions => .next (s.issue actions)

/-- SCROLL text, delay, stride (R114): a stride below 1 or a negative delay is refused (R117). -/
def execScroll (text : List Byte) (delay stride : Int) (s : State) : Host.Outcome State Fault Refusal :=
  s.whenRunning .notConfigured <|
    if stride < 1 ∨ delay < 0 then .refused .badScrollOperand
    else .next (s.issue (scrollActions text delay.toNat stride.toNat))

end Sys2Proof.Machine
end

