-- ==== Sys2Proof/Machine/WireWriter.lean ====
section
/-! DEFINITION. RENDER and SHIFTOUT (42_wire_writer.md R82 to R94). -/

namespace Sys2Proof.Machine

open Sys2Proof

/-- RENDER pattern, position (R82): one frame, one outcome for every pattern (R90); a position outside 0 to 3 is
refused (R94), and so is a RENDER before CONFIGURE (R142; log 15). -/
def execRender (pattern : Byte) (position : Nat) (s : State) : Host.Outcome State Fault Refusal :=
  s.whenRunning .notConfigured <|
    match positionOperand position with
    | none   => .refused .positionOutOfRange
    | some p => .next (s.sendFrame pattern p)

/-- SHIFTOUT dataPin, clockPin, v (R86); before CONFIGURE refused (R142; log 15). -/
def execShiftout (data clock : PinId) (v : Byte) (s : State) : Host.Outcome State Fault Refusal :=
  s.whenRunning .notConfigured (.next (s.shiftOut data clock v))

end Sys2Proof.Machine
end

