-- ==== Sys2Proof/Machine/Dispatch.lean ====
section
/-! DEFINITION. One arm per operation of the table (00_scope.md R8). -/

namespace Sys2Proof.Machine
open Sys2Proof

def exec (i : Instr) (s : State) : Host.Outcome State Fault Refusal :=
  match i with
  | .configure l c d anode => Sys2Proof.Machine.execConfigure l c d anode s
  | .setchar p ch => Sys2Proof.Machine.execSetchar p ch s
  | .clear => Sys2Proof.Machine.execClear s
  | .tick => Sys2Proof.Machine.execTick s
  | .setstring text => Sys2Proof.Machine.execSetstring text s
  | .scroll text delay stride => Sys2Proof.Machine.execScroll text delay stride s
  | .lookup code => Sys2Proof.Machine.execLookup code s
  | .render pattern p => Sys2Proof.Machine.execRender pattern p s
  | .shiftout d c v => Sys2Proof.Machine.execShiftout d c v s

end Sys2Proof.Machine
end

