-- ==== Sys2Proof/WellFormed.lean ====
section
/-! DEFINITION. Well-formed operations: operands inside the types and preconditions the spec gives (30_encoding.md
R65). The machine does not rely on it: each meaning refuses its own bad operands by name. -/

namespace Sys2Proof

/-- Operands inside the ranges of R65: three distinct pin operands (R79), a position 0 to 3 (R107, R94), a text of at least 4
bytes for SETSTRING (R112), a stride of at least 1 and a delay of at least 0 (R117), a code of the font (R73). A SCROLL
text shorter than 4 bytes is given a meaning (no step, R115) and is not excluded. -/
def Instr.wf : Instr → Bool
  | .configure l c d _ => l != c && l != d && c != d
  | .setchar p _       => decide (p ≤ 3)
  | .clear             => true
  | .tick              => true
  | .setstring text    => decide (4 ≤ text.length)
  | .scroll _ delay stride => decide (0 ≤ delay) && decide (1 ≤ stride)
  | .lookup code       => decide (0x20#8 ≤ code) && decide (code ≤ 0x60#8)
  | .render _ p        => decide (p ≤ 3)
  | .shiftout _ _ _    => true

/-- A well-formed operation that is one stimulus word (R61): CONFIGURE with the word's own pin parameters, SETCHAR at a
position 0 to 3, CLEAR, TICK. -/
def Instr.hasWord : Instr → Bool
  | .configure l c d _ => l == .latchPin && c == .clockPin && d == .dataPin
  | .setchar p _       => decide (p ≤ 3)
  | .clear             => true
  | .tick              => true
  | .setstring _       => false
  | .scroll _ _ _      => false
  | .lookup _          => false
  | .render _ _        => false
  | .shiftout _ _ _    => false

end Sys2Proof
end

