-- ==== Sys2Proof/Decode.lean ====
section
/-! DEFINITION. The stimulus word (30_encoding.md R60 to R62): the opcode map as a table of masks and matches, the
decoder, total on all 65,536 words, and the encoder written from the same table. -/

namespace Sys2Proof

/-- The rows of rule R61 that have a word. -/
inductive Opcode where
  | configure
  | setchar
  | clear
  | tick
deriving DecidableEq, Repr

/-- One row of the opcode map: a word `w` selects the operation when `w and mask = match` (R61). -/
structure OpcodeRow where
  opcode : Opcode
  pattern : Word
  mask : Word
deriving DecidableEq, Repr

/-- The stimulus opcode map of rule R61. -/
def opcodeMap : List OpcodeRow :=
  [ ⟨.configure, 0x1000#16, 0xFFFE#16⟩,
    ⟨.setchar,   0x2000#16, 0xFC00#16⟩,
    ⟨.clear,     0x3000#16, 0xFFFF#16⟩,
    ⟨.tick,      0x8000#16, 0xFFFF#16⟩ ]

/-- The word lies in the row. -/
def OpcodeRow.selects (r : OpcodeRow) (w : Word) : Bool := w &&& r.mask == r.pattern

/-- The two rows cannot both select one word: some bit is fixed by both, to different values. -/
def OpcodeRow.disjoint (r r' : OpcodeRow) : Bool := (r.pattern ^^^ r'.pattern) &&& r.mask &&& r'.mask != 0#16

/-- Why a word is no operation. -/
inductive DecodeError where
  /-- the word matches no row of R61 (R62) -/
  | reservedStimulus (w : Word)
deriving DecidableEq, Repr

/-- The field `anode = W[0]` (R61). -/
def anodeField (w : Word) : Bool := w.getLsbD 0

/-- The field `pos = W[9:8]` (R60). -/
def positionField (w : Word) : Position := w.extractLsb' 8 2

/-- The field `ch = W[7:0]` (R60). -/
def charField (w : Word) : Byte := w.extractLsb' 0 8

/-- Operand assembly of a row (R61); the pins of CONFIGURE are the parameters LATCH_PIN, CLOCK_PIN, DATA_PIN. -/
def Opcode.assemble (op : Opcode) (w : Word) : Instr :=
  match op with
  | .configure => .configure .latchPin .clockPin .dataPin (anodeField w)
  | .setchar   => .setchar (positionField w).toNat (charField w)
  | .clear     => .clear
  | .tick      => .tick

/-- The decoder (R61): the row that selects the word, or `reservedStimulus` (R62). -/
def decode (w : Word) : Except DecodeError Instr :=
  match opcodeMap.find? (fun r => r.selects w) with
  | some r => .ok (r.opcode.assemble w)
  | none   => .error (.reservedStimulus w)

/-- The encoder (R61): the stimulus word of an operation that has one. A position outside 0 to 3 "cannot be written in
a stimulus word" (R60), nor can pins given by a call, and the other five operations have no word (R61). -/
def encode : Instr → Option Word
  | .configure l c d anode =>
      if l = .latchPin ∧ c = .clockPin ∧ d = .dataPin then
        some (0x1000#16 ||| (BitVec.ofBool anode).setWidth 16)
      else none
  | .setchar p ch =>
      if p ≤ 3 then some (0x2000#16 ||| (BitVec.ofNat 16 p <<< 8) ||| ch.setWidth 16) else none
  | .clear           => some 0x3000#16
  | .tick            => some 0x8000#16
  | .setstring _     => none
  | .scroll _ _ _    => none
  | .lookup _        => none
  | .render _ _      => none
  | .shiftout _ _ _  => none

/-- SETSTRING "written as four SETCHAR words" (R59, R61; opcode_table.json), and none of a text too short. -/
def setstringWords : List Byte → Option (List Word)
  | a :: b :: c :: d :: _ =>
      [Instr.setchar 3 a, .setchar 2 b, .setchar 1 c, .setchar 0 d].mapM encode
  | _ => none

/-- What the decoder reads from a word given as a number, bit 0 its least significant bit; the stimulus word is one
16-bit unit and has no byte order (R35). A number of more than 16 bits is no word. (Log 24.)
-/
def decodeTableWord (_nbits w : Nat) : Option Instr :=
  if w < 65536 then
    match decode (BitVec.ofNat 16 w) with
    | .ok i    => some i
    | .error _ => none
  else none

end Sys2Proof
end

