-- ==== Sys2Proof/Machine/Fetch.lean ====
section
/-! DEFINITION. What the main context does next (20_memory.md R40): finish the operation in progress, or take the next
command from the port and decode it. -/

namespace Sys2Proof.Machine

open Sys2Proof

/-- The operations the host may issue in the main context (R8, R136). TICK is "not separately callable" (R95, R101)
and LOOKUP, RENDER and SHIFTOUT happen only inside a TICK (R61). (DEDUCED, log 10.) -/
def hostMayIssue : Instr → Bool
  | .configure _ _ _ _ => true
  | .setchar _ _       => true
  | .clear             => true
  | .tick              => false
  | .setstring _       => true
  | .scroll _ _ _      => true
  | .lookup _          => false
  | .render _ _        => false
  | .shiftout _ _ _    => false

/-- What the main context does next. -/
inductive MainWork where
  /-- the next primitive action of the operation in progress, and those after it -/
  | act (a : Action) (rest : List Action)
  /-- the next command is this operation; the commands after it -/
  | issue (i : Instr) (rest : List Command)
  /-- the next command has no meaning -/
  | bad (r : Refusal)
  /-- nothing: no operation in progress, no command -/
  | none
deriving DecidableEq, Repr

/-- The operation a command stands for: a word is decoded (R61, R62); a call must be one the host may make (R95, R136).
-/
def Command.operation : Command → Except Refusal Instr
  | .word w =>
    match decode w with
    | .ok i    => .ok i
    | .error _ => .error .reservedStimulus
  | .call i => if hostMayIssue i then .ok i else .error .notHostCallable

/-- The main context's next work, in program order (R40). -/
def State.mainWork (s : State) : MainWork :=
  match s.pending, s.port with
  | a :: rest, _ => .act a rest
  | [], c :: cs =>
    match c.operation with
    | .ok i    => .issue i cs
    | .error r => .bad r
  | [], [] => .none

end Sys2Proof.Machine
end

