-- ==== Sys2Proof/Machine/Contexts.lean ====
section
/-! DEFINITION. The turns of the agents (20_memory.md R40; 60_exceptions.md R132 to R135): the main context, the timer's
interrupt context, the reset input. -/

namespace Sys2Proof.Machine

open Sys2Proof

/-- The main context's turn. With nothing left to do for the host, the next thing that happens is a TICK, for ever
(R139, R162); before CONFIGURE nothing happens at all (R142). (DESIGN CHOICE, log 23.) -/
def mainStep (s : State) : Host.Outcome State Fault Refusal :=
  match s.mainWork with
  | .act a rest  => .next (State.perform { s with pending := rest } a)
  | .issue i cs  => exec i { s with port := cs }
  | .bad r       => .refused r
  | .none        => if s.timerAttached then exec .tick s else .next s

/-- The timer's turn: a TICK preempts the main context where it stands (R132); while no timer is attached there is none
and nothing happens (R101). -/
def timerStep (s : State) : Host.Outcome State Fault Refusal :=
  if s.timerAttached then exec .tick s else .next s

/-- The reset input's turn (R141): it may come between any two actions, never inside a TICK. (Log 11.) -/
def resetStep (s : State) : Host.Outcome State Fault Refusal := .next s.resetInput

end Sys2Proof.Machine
end

