-- ==== Sys2Proof/Machine/Step.lean ====
section
/-! DEFINITION. One step: one atomic action of the global order of rule R40 (20_memory.md), that is one whole TICK, one
primitive action or the issue of one command by the main context, or one reset. -/

namespace Sys2Proof.Machine

open Sys2Proof

/-- One step: the agent whose turn it is acts; with no turn given, the main context (R40, R101). (DESIGN CHOICE,
log 1, log 9.) -/
def step (s : State) : Host.Outcome State Fault Refusal :=
  match s.turns with
  | []            => mainStep s
  | .main :: ts   => mainStep { s with turns := ts }
  | .tick :: ts   => timerStep { s with turns := ts }
  | .reset :: ts  => resetStep { s with turns := ts }

/-- The state with a stimulus word as the next command, so that the very next step issues it: the word stands first at
the port, no operation is in progress, and the main context's turn is next. (DESIGN CHOICE, log 9, log 24.) -/
def State.withFetchWord (s : State) (_nbits w : Nat) : State :=
  { s with port := .word (BitVec.ofNat 16 w) :: s.port, pending := [], turns := .main :: s.turns }

end Sys2Proof.Machine
end

