-- ==== Sys2Proof/Laws/Decode.lean ====
section
/-! SUPPORT. What the decoder can do, once. -/

namespace Sys2Proof

/-- A word is in at most one row, and the decoder reads the row's operands. -/
theorem decode_eq (w : Word) :
    decode w =
      if w &&& 0xFFFE#16 = 0x1000#16 then .ok (.configure .latchPin .clockPin .dataPin (anodeField w))
      else if w &&& 0xFC00#16 = 0x2000#16 then .ok (.setchar (positionField w).toNat (charField w))
      else if w &&& 0xFFFF#16 = 0x3000#16 then .ok .clear
      else if w &&& 0xFFFF#16 = 0x8000#16 then .ok .tick
      else .error (.reservedStimulus w) := by
  have key : ∀ m p : Word, (w &&& m == p) = decide (w &&& m = p) := fun m p => by
    by_cases h : w &&& m = p <;> simp [h]
  simp only [decode, opcodeMap, OpcodeRow.selects, List.find?, key]
  by_cases h1 : w &&& 0xFFFE#16 = 0x1000#16
  · simp only [h1, decide_true, if_true, Opcode.assemble]
  · by_cases h2 : w &&& 0xFC00#16 = 0x2000#16
    · simp only [h1, h2, decide_true, decide_false, if_true, if_false, Opcode.assemble]
    · by_cases h3 : w &&& 0xFFFF#16 = 0x3000#16
      · simp only [h1, h2, h3, decide_true, decide_false, if_true, if_false, Opcode.assemble]
      · by_cases h4 : w &&& 0xFFFF#16 = 0x8000#16
        · simp only [h1, h2, h4, decide_true, decide_false, if_true, if_false, Opcode.assemble]
          simp
        · simp only [h1, h2, h3, h4, decide_false, if_false]

end Sys2Proof
end

