-- ==== Sys2Proof/Laws/PerInstr.lean ====
section
/-! SUPPORT. Statements made per constructor of Instr: the word of an operation decodes to the operation (30_encoding.md
R61), trivially true of the five operations that have no word. -/

namespace Sys2Proof.Laws.WordDecodes

open Sys2Proof

/-- The word of the operation, if it has one, decodes to it. -/
def Statement (i : Instr) : Prop := ∀ w, encode i = some w → decode w = .ok i

theorem configure (l c d : PinOperand) (anode : Bool) : Statement (.configure l c d anode) := by
  intro w h
  simp only [encode] at h
  split at h
  · next hp =>
    obtain ⟨rfl, rfl, rfl⟩ := hp
    cases h
    cases anode <;> decide
  · cases h

theorem setchar (p : Nat) (ch : Byte) : Statement (.setchar p ch) := by
  intro w h
  simp only [encode] at h
  split at h
  · next hp =>
    cases h
    rw [decode_eq]
    interval_cases p <;> revert ch <;> decide
  · cases h

theorem clear : Statement .clear := by
  intro w h
  cases h
  decide

theorem tick : Statement .tick := by
  intro w h
  cases h
  decide

theorem setstring (text : List Byte) : Statement (.setstring text) := fun _ h => by cases h

theorem scroll (text : List Byte) (delay stride : Int) : Statement (.scroll text delay stride) := fun _ h => by cases h

theorem lookup (code : Byte) : Statement (.lookup code) := fun _ h => by cases h

theorem render (pattern : Byte) (p : Nat) : Statement (.render pattern p) := fun _ h => by cases h

theorem shiftout (d c : PinId) (v : Byte) : Statement (.shiftout d c v) := fun _ h => by cases h

end Sys2Proof.Laws.WordDecodes
end

