-- ==== Sys2Proof/Machine/Display.lean ====
section
/-! DEFINITION. What the display shows (20_memory.md R46, R47): a view of the chain's outputs, not state. -/

namespace Sys2Proof.Machine

open Sys2Proof

/-- The line DS[j] of the latched frame: Q[15 - j] (R46). -/
def Chain.digitLine (c : Chain) (j : Fin 8) : Bool := c.q.getLsbD (15 - j)

/-- The line SG[j] of the latched frame: Q[7 - j] (R46). -/
def Chain.segmentLine (c : Chain) (j : Fin 8) : Bool := c.q.getLsbD (7 - j)

/-- The enable line of position p is DS[7 - p] (R56); it is active at 1 for anode, at 0 for cathode (R47).
R47 speaks of these two masks only, after a latched frame; any other mask, which only an unconfigured block can hold, is
read as cathode. (DESIGN CHOICE, log 26.) -/
def State.enabled (s : State) (p : Position) : Bool :=
  s.chain.digitLine ⟨7 - p.toNat, by omega⟩ == decide (s.cfg.mask = 0xFF#8)

/-- A segment line lights its segment at 0 for anode, at 1 for cathode (R47); a mask that is
neither is read as cathode. (DESIGN CHOICE, log 26.) -/
def State.segmentActive (s : State) (j : Fin 8) : Bool :=
  s.chain.segmentLine j != decide (s.cfg.mask = 0xFF#8)

/-- Segment bit j of position p is lit (R47); before the first latched frame and before CONFIGURE it is the view of
unknown outputs and an unknown mask. (DESIGN CHOICE, log 26.) -/
def State.lit (s : State) (p : Position) (j : Fin 8) : Bool := s.enabled p && s.segmentActive j

/-- Segment `g` of physical digit `d` is lit: some lit bit of some position is wired there (R7: DIGIT_WIRING,
SEGMENT_WIRING). -/
def State.physicallyLit (s : State) (d : Fin 4) (g : Fin 8) : Bool :=
  [0, 1, 2, 3].any fun p => (List.finRange 8).any fun j =>
    Config.digitWiring p == d && Config.segmentWiring j == g && s.lit p j

end Sys2Proof.Machine
end

