-- ==== Sys2Proof/Safety.lean ====
section
/-! DEFINITION. The terms the statements use: the machine's invariant, runs, turns, and a frame as events. -/

namespace Sys2Proof.Machine

open Sys2Proof

/-- What holds of every state the block can be in (10_state.md R15, R19 to R21, R23, R26, R29; 70_reset_and_hazards.md
R142). -/
structure State.Inv (s : State) : Prop where
  /-- while running, every slot holds a font index 0 to 64 (R15) -/
  slots : s.mode = .running → ∀ p : Position, (s.slot p).toNat ≤ 64
  /-- while running, the mask has one of its two legal values (R19) -/
  mask : s.mode = .running → s.cfg.mask = 0xFF#8 ∨ s.cfg.mask = 0x00#8
  /-- while running, the three pins are pairwise distinct (R20) -/
  pins : s.mode = .running → s.cfg.latch ≠ s.cfg.clock ∧ s.cfg.latch ≠ s.cfg.data ∧ s.cfg.clock ≠ s.cfg.data
  /-- the font meets the constraints of R69 to R71 -/
  font : FontLegal s.font
  /-- the timer is attached, with the fixed period, exactly while running (R21, R29) -/
  timer : s.timer = if s.mode = .running then some 4000 else none
  /-- the lines are driven exactly while running (R26, R29) -/
  driven : s.lines.isSome = decide (s.mode = .running)
  /-- before CONFIGURE the trace is empty (R142) and no operation is in progress -/
  quiet : s.mode = .unconfigured → s.out = [] ∧ s.pending = []
  /-- a slot write still to be done writes a font index 0 to 64 (R15) -/
  stores : ∀ p v, Action.store p v ∈ s.pending → v.toNat ≤ 64

/-- `k` steps of the machine. -/
abbrev run (k : Nat) (s : State) : Host.Outcome State Fault Refusal := Sys2Proof.core.run k s

/-- How many of the turns are the timer's. -/
def ticksIn (ts : List Turn) : Nat := ts.count .tick

/-- How many of the turns are the main context's. -/
def mainsIn (ts : List Turn) : Nat := ts.count .main

/-- The four events of one frame (R82). -/
def frameEvents (cfg : DisplayConfig) (ds sg : Byte) : List Event :=
  [.write cfg.latch false, .shift cfg.data cfg.clock ds, .shift cfg.data cfg.clock sg, .write cfg.latch true]

/-- The buffer after the slot writes among the actions, in order. -/
def applyStores (buf : Vector Byte 4) (as : List Action) : Vector Byte 4 :=
  as.foldl (fun b a => match a with
    | .store p v => b.set p.toNat v
    | .sleep _   => b) buf

/-- The SLEEP events the actions will emit, in order. -/
def sleepsOf (as : List Action) : List Event :=
  as.filterMap fun | .sleep ms => some (.sleep ms) | .store _ _ => none

/-- The SLEEP events of a trace, in order. -/
def sleepEvents (out : List Event) : List Event := out.filter fun | .sleep _ => true | _ => false

/-- The pattern a slot selects (R96); blank, which no state of the invariant needs, for an index outside the font. -/
def State.patternAt (s : State) (p : Position) : Byte := (s.fontAt (s.slot p)).getD 0x00#8

/-- The number of steps of a SCROLL of `len` bytes (R115). -/
def scrollSteps (len stride : Nat) : Nat := if len < 4 then 0 else (len - 4) / stride + 1

/-- The slot writes of the window of a text at an offset (R111). -/
def windowAt (text : List Byte) (offset : Nat) : List Action :=
  [.store 3 (fontIndex (text.getD offset 0)), .store 2 (fontIndex (text.getD (offset + 1) 0)),
   .store 1 (fontIndex (text.getD (offset + 2) 0)), .store 0 (fontIndex (text.getD (offset + 3) 0))]

/-! Renaming pins: the same state, operation and events with every pin identifier renamed. -/

/-- The pin operand with its identifier renamed. -/
def renameOperand (f : PinId → PinId) (o : PinOperand) : PinOperand := .pin (f (pinValue o))

/-- The operation with its pins renamed. -/
def renameInstr (f : PinId → PinId) : Instr → Instr
  | .configure l c d anode => .configure (renameOperand f l) (renameOperand f c) (renameOperand f d) anode
  | .setchar p ch          => .setchar p ch
  | .clear                 => .clear
  | .tick                  => .tick
  | .setstring text        => .setstring text
  | .scroll text dl st     => .scroll text dl st
  | .lookup code           => .lookup code
  | .render x p            => .render x p
  | .shiftout d c v        => .shiftout (f d) (f c) v

/-- The event with its pins renamed. -/
def renameEvent (f : PinId → PinId) : Event → Event
  | .modeOut pin      => .modeOut (f pin)
  | .write pin level  => .write (f pin) level
  | .shift d c v      => .shift (f d) (f c) v
  | .timerInit        => .timerInit
  | .timerAttach us   => .timerAttach us
  | .sleep ms         => .sleep ms

/-- The state with the pins of CFG and of the trace renamed. -/
def State.renamePins (f : PinId → PinId) (s : State) : State :=
  { s with
    cfg := ⟨s.cfg.mask, f s.cfg.latch, f s.cfg.clock, f s.cfg.data⟩
    out := s.out.map (renameEvent f) }

/-- The outcome with the next state, if there is one, changed. -/
def mapNext (g : State → State) : Host.Outcome State Fault Refusal → Host.Outcome State Fault Refusal
  | .next s    => .next (g s)
  | .fault r   => .fault r
  | .refused r => .refused r

end Sys2Proof.Machine
end

