-- ==== Sys2Proof/Certificates/Slice0/Obligations.lean ====
section
/-! DEFINITION. The statements about the block, from the numbered rules of the spec. -/

open Sys2Proof Sys2Proof.Machine

/-! Reset and boot. -/

/-- Reset (R29, R141): MODE unconfigured, timer not attached, lines not driven, empty trace, a legal font. -/
def Obligations.ResetLeavesTheBlockUnconfigured : Prop :=
  State.reset.mode = .unconfigured ∧ State.reset.timer = none ∧ State.reset.lines = none ∧ State.reset.out = [] ∧
    FontLegal State.reset.font

/-- The invariant holds at reset. -/
def Obligations.ResetMeetsTheInvariant : Prop := State.reset.Inv

/-- The reset input (R141, R139): MODE unconfigured, the timer not attached, the lines not driven, the font as before.
That the trace starts anew, that the operation in progress is dropped and that the commands to come stay is the model's
choice (log 11). -/
def Obligations.ResetInputReturnsToUnconfigured : Prop :=
  ∀ (s : State) (ts : List Turn), s.turns = .reset :: ts →
    ∃ t, step s = .next t ∧ t.mode = .unconfigured ∧ t.timer = none ∧ t.lines = none ∧ t.font = s.font ∧
      t.out = [] ∧ t.pending = [] ∧ t.port = s.port ∧ t.turns = ts

/-- Before CONFIGURE, with no command waiting, nothing happens (R142): a step changes nothing of the block, only uses up
a turn; a timer's turn is no TICK (R101). -/
def Obligations.UnconfiguredBlockDoesNothing : Prop :=
  ∀ s : State, s.Inv → s.mode = .unconfigured → s.port = [] → s.turns.head? ≠ some .reset →
    step s = .next { s with turns := s.turns.tail }

/-- Before CONFIGURE every operation but CONFIGURE and the pure LOOKUP is refused (R78, R142, R101); for RENDER and
SHIFTOUT this is the model's inference (log 15). -/
def Obligations.OperationsBeforeConfigureAreRefused : Prop :=
  ∀ s : State, s.mode = .unconfigured →
    (∀ p ch, exec (.setchar p ch) s = .refused .notConfigured) ∧
    exec .clear s = .refused .notConfigured ∧
    (∀ text, exec (.setstring text) s = .refused .notConfigured) ∧
    (∀ text delay stride, exec (.scroll text delay stride) s = .refused .notConfigured) ∧
    (∀ x p, exec (.render x p) s = .refused .notConfigured) ∧
    (∀ d c v, exec (.shiftout d c v) s = .refused .notConfigured) ∧
    exec .tick s = .refused .timerNotAttached

/-- CONFIGURE (R74): refused the second time, refused for pins that are not distinct, and otherwise the state and the
five events of the pseudocode, with nothing else changed; a word's pins are the parameters (R61); an omitted flag means
cathode. The driven lines and the attached timer are R26's and R29's, and that the levels are some `lv` of the free value
is the model's form of PIN_IDLE (log 3; the pins: log 4). -/
def Obligations.ConfigureBootsTheBlock : Prop :=
  ∀ (s : State) (l c d : PinId) (anode : Bool),
    (s.mode = .running → exec (.configure (.pin l) (.pin c) (.pin d) anode) s = .refused .configureTwice) ∧
    (s.mode = .unconfigured → l = c ∨ l = d ∨ c = d →
      exec (.configure (.pin l) (.pin c) (.pin d) anode) s = .refused .pinsNotDistinct) ∧
    (s.mode = .unconfigured → l ≠ c → l ≠ d → c ≠ d →
      ∃ lv : Levels, exec (.configure (.pin l) (.pin c) (.pin d) anode) s = .next
        { s with
          mode := .running, buf := #v[0, 0, 0, 0], cur := 0,
          cfg := ⟨if anode then 0xFF#8 else 0x00#8, l, c, d⟩,
          lines := some lv, timer := some 4000,
          out := s.out ++ [.modeOut l, .modeOut c, .modeOut d, .timerInit, .timerAttach 4000] }) ∧
    (∀ l c d : PinOperand, exec (.configure l c d anode) s =
      exec (.configure (.pin (pinValue l)) (.pin (pinValue c)) (.pin (pinValue d)) anode) s) ∧
    (s.mode = .unconfigured → ∃ t, exec (.configure .latchPin .clockPin .dataPin anode) s = .next t) ∧
    (Instr.configure (.pin l) (.pin c) (.pin d) : Instr) = .configure (.pin l) (.pin c) (.pin d) false

/-- The unknown values of BUF, CUR and CFG before CONFIGURE cannot be observed: CONFIGURE overwrites them all (R142). -/
def Obligations.ConfigureForgetsThePowerUpValues : Prop :=
  ∀ (s : State) (l c d : PinOperand) (anode : Bool) (buf : Vector Byte 4) (cur : Position) (cfg : DisplayConfig),
    exec (.configure l c d anode) { s with buf := buf, cur := cur, cfg := cfg } = exec (.configure l c d anode) s

/-- The first four TICKs after CONFIGURE send the blank pattern to positions 0, 1, 2, 3 (R146). With no turn given and no
command waiting, the four steps are TICKs by the model's choice (log 23). -/
def Obligations.BootThenFourBlankFrames : Prop :=
  ∀ (s : State) (l c d : PinId) (anode : Bool), s.Inv → s.mode = .unconfigured → l ≠ c → l ≠ d → c ≠ d →
    s.port = [] → s.turns = [] →
    ∃ t u, exec (.configure (.pin l) (.pin c) (.pin d) anode) s = .next t ∧ run 4 t = .next u ∧
      u.buf = #v[0, 0, 0, 0] ∧ u.cur = 0 ∧
      u.out = t.out ++
        (if anode then
          frameEvents t.cfg 0x80#8 0xFF#8 ++ frameEvents t.cfg 0x40#8 0xFF#8 ++
          frameEvents t.cfg 0x20#8 0xFF#8 ++ frameEvents t.cfg 0x10#8 0xFF#8
        else
          frameEvents t.cfg 0x7F#8 0x00#8 ++ frameEvents t.cfg 0x3F#8 0x00#8 ++
          frameEvents t.cfg 0x1F#8 0x00#8 ++ frameEvents t.cfg 0x0F#8 0x00#8)

/-- Of pin identifiers nothing but equality matters (R7, R20, R79): renaming them one-to-one, in the state and in the
operands, renames the outcome and changes nothing else. The type of pins is open (log 4). -/
def Obligations.OnlyEqualityOfPinsMatters : Prop :=
  ∀ (f : PinId → PinId), Function.Injective f →
    ∀ (i : Instr) (s : State), exec (renameInstr f i) (s.renamePins f) = mapNext (State.renamePins f) (exec i s)

/-! Characters, slots, texts. -/

/-- The three classes of a character code (R50): their indices, their ranges, disjoint and together all bytes. -/
def Obligations.CharacterClassesGiveTheIndex : Prop :=
  ∀ ch : Byte,
    (0x20 ≤ ch.toNat ∧ ch.toNat ≤ 0x60 →
      (fontIndex ch).toNat = ch.toNat - 0x20 ∧ (fontIndex ch).toNat ≤ 0x40) ∧
    (0x61 ≤ ch.toNat ∧ ch.toNat ≤ 0x7A →
      (fontIndex ch).toNat = ch.toNat - 0x40 ∧ 0x21 ≤ (fontIndex ch).toNat ∧ (fontIndex ch).toNat ≤ 0x3A) ∧
    (ch.toNat ≤ 0x1F ∨ 0x7B ≤ ch.toNat → fontIndex ch = 0x00#8) ∧
    ((0x20 ≤ ch.toNat ∧ ch.toNat ≤ 0x60) ∨ (0x61 ≤ ch.toNat ∧ ch.toNat ≤ 0x7A) ∨
      (ch.toNat ≤ 0x1F ∨ 0x7B ≤ ch.toNat)) ∧
    ¬ ((0x20 ≤ ch.toNat ∧ ch.toNat ≤ 0x60) ∧ (0x61 ≤ ch.toNat ∧ ch.toNat ≤ 0x7A)) ∧
    ¬ ((0x20 ≤ ch.toNat ∧ ch.toNat ≤ 0x60) ∧ (ch.toNat ≤ 0x1F ∨ 0x7B ≤ ch.toNat)) ∧
    ¬ ((0x61 ≤ ch.toNat ∧ ch.toNat ≤ 0x7A) ∧ (ch.toNat ≤ 0x1F ∨ 0x7B ≤ ch.toNat))

/-- SETCHAR (R103), whole: the two refusals, and otherwise one slot written and nothing else changed. -/
def Obligations.SetcharWritesOneSlot : Prop :=
  ∀ (s : State) (p : Nat) (ch : Byte),
    (s.mode = .unconfigured → exec (.setchar p ch) s = .refused .notConfigured) ∧
    (s.mode = .running → 3 < p → exec (.setchar p ch) s = .refused .positionOutOfRange) ∧
    (s.mode = .running → ∀ hp : p < 4, exec (.setchar p ch) s = .next { s with buf := s.buf.set p (fontIndex ch) }) ∧
    fontIndex 0x41#8 = 0x21#8

/-- A lowercase letter shows the uppercase letter's glyph (R105), whole. -/
def Obligations.LowercaseStoresTheUppercaseIndex : Prop :=
  (∀ (s : State) (p : Nat) (ch : Byte), 0x61 ≤ ch.toNat → ch.toNat ≤ 0x7A → s.mode = .running →
    ∀ hp : p < 4, exec (.setchar p ch) s = .next { s with buf := s.buf.set p (ch - 0x40#8) } ∧
      exec (.setchar p (ch - 0x20#8)) s = exec (.setchar p ch) s) ∧
  fontIndex 0x61#8 = 0x21#8 ∧ fontIndex 0x7A#8 = 0x3A#8

/-- Whatever interleaving of the main context's actions with whole TICKs: a group of actions completes, the buffer and
the SLEEP events after it are the same, and the cursor has moved by the TICKs alone (R40 to R42; the schedule is the
model's `turns`, log 9). -/
def Obligations.GroupsCompleteUnderEveryInterleaving : Prop :=
  ∀ (s : State) (as more : List Action) (ts rest : List Turn), s.Inv → s.mode = .running →
    s.pending = as ++ more → s.turns = ts ++ rest → ts.count .reset = 0 → mainsIn ts = as.length →
    ∃ u, run ts.length s = .next u ∧
      u.buf = applyStores s.buf as ∧ u.cur = s.cur + BitVec.ofNat 2 (ticksIn ts) ∧
      sleepEvents u.out = sleepEvents s.out ++ sleepsOf as ∧
      u.mode = .running ∧ u.cfg = s.cfg ∧ u.font = s.font ∧ u.timer = s.timer ∧
      u.pending = more ∧ u.port = s.port ∧ u.turns = rest

/-- CLEAR (R108, R109): issued, it is four writes of the blank index in some order of the four slots, and whatever TICKs
fall among them all four slots end blank, with CUR moved by the TICKs alone and CFG untouched. -/
def Obligations.ClearBlanksTheBuffer : Prop :=
  ∀ s : State, s.Inv → s.mode = .running →
    ∃ order : List Position, order.Perm [0, 1, 2, 3] ∧
      exec .clear s = .next { s with pending := order.map (.store · 0x00#8) ++ s.pending } ∧
      ∀ ts rest : List Turn, ts.count .reset = 0 → mainsIn ts = 4 →
        ∃ u, run ts.length
            { s with pending := order.map (.store · 0x00#8) ++ s.pending, turns := ts ++ rest } = .next u ∧
          u.buf = #v[0, 0, 0, 0] ∧ u.cur = s.cur + BitVec.ofNat 2 (ticksIn ts) ∧ u.cfg = s.cfg ∧ u.mode = .running ∧
          u.pending = s.pending

/-- SETSTRING (R110, R111, R112): refused before CONFIGURE and for fewer than four bytes; otherwise four slot writes,
positions 3, 2, 1, 0, from the first four bytes, and nothing else changed. -/
def Obligations.SetstringIssuesFourSlotWrites : Prop :=
  ∀ s : State,
    (∀ text, s.mode = .unconfigured → exec (.setstring text) s = .refused .notConfigured) ∧
    (∀ text, s.mode = .running → text.length < 4 → exec (.setstring text) s = .refused .textTooShort) ∧
    (∀ (a b c d : Byte) (more : List Byte), s.mode = .running →
      exec (.setstring (a :: b :: c :: d :: more)) s = .next
        { s with pending :=
            [.store 3 (fontIndex a), .store 2 (fontIndex b), .store 1 (fontIndex c), .store 0 (fontIndex d)] ++
              s.pending })

/-- After a SETSTRING, BUF[3 - k] = idx(text[k]), whatever TICKs fall among its four writes (R110, R113). -/
def Obligations.SetstringFillsTheBufferBackToFront : Prop :=
  ∀ (s t : State) (a b c d : Byte) (more : List Byte), s.Inv → s.mode = .running →
    exec (.setstring (a :: b :: c :: d :: more)) s = .next t →
    ∀ ts rest : List Turn, ts.count .reset = 0 → mainsIn ts = 4 →
      ∃ u, run ts.length { t with turns := ts ++ rest } = .next u ∧
        u.buf = #v[fontIndex d, fontIndex c, fontIndex b, fontIndex a] ∧
        u.cur = s.cur + BitVec.ofNat 2 (ticksIn ts) ∧ u.pending = s.pending ∧ u.mode = .running ∧ u.cfg = s.cfg

/-- SETSTRING is the four SETCHAR words of its expansion (R59): issued from the port it leaves, five steps later, the
very state the four words leave after four. That it takes five steps, the issue being one, is the model's choice (log 1),
and with no turns given no TICK falls among them (log 9). -/
def Obligations.SetstringIsItsFourSetcharWords : Prop :=
  ∀ (s : State) (a b c d : Byte) (more : List Byte) (cs : List Command), s.mode = .running → s.pending = [] →
    s.turns = [] →
    ∃ w3 w2 w1 w0 : Word, ∃ u : State, setstringWords (a :: b :: c :: d :: more) = some [w3, w2, w1, w0] ∧
      run 5 { s with port := .call (.setstring (a :: b :: c :: d :: more)) :: cs } = .next u ∧
      run 4 { s with port := .word w3 :: .word w2 :: .word w1 :: .word w0 :: cs } = .next u ∧
      u = { s with buf := #v[fontIndex d, fontIndex c, fontIndex b, fontIndex a], port := cs }

/-- SCROLL (R114, R115): with a stride of at least 1 and a delay of at least 0 it issues, for each of its steps, the four
writes of the window at the step's offset and one SLEEP of the delay, and changes nothing else. -/
def Obligations.ScrollIssuesOneWindowAndOneSleepPerStep : Prop :=
  ∀ (s : State) (text : List Byte) (delay stride : Nat), s.mode = .running → 1 ≤ stride →
    exec (.scroll text delay stride) s = .next
      { s with
        pending :=
          (List.range (scrollSteps text.length stride)).flatMap
            (fun k => windowAt text (k * stride) ++ [.sleep delay]) ++ s.pending }

/-- After a SCROLL of at least 4 bytes the buffer holds the last window, and the trace has one SLEEP of the delay for
each step, whatever TICKs fall among its actions (R115, R116). -/
def Obligations.ScrollLeavesTheLastWindow : Prop :=
  ∀ (s t : State) (text : List Byte) (delay stride : Nat), s.Inv → s.mode = .running → 1 ≤ stride →
    4 ≤ text.length → exec (.scroll text delay stride) s = .next t →
    ∀ ts rest : List Turn, ts.count .reset = 0 → mainsIn ts = 5 * scrollSteps text.length stride →
      ∃ u, run ts.length { t with turns := ts ++ rest } = .next u ∧ u.pending = s.pending ∧
        (∀ k : Fin 4, u.slot (BitVec.ofNat 2 (3 - k.val)) =
          fontIndex (text.getD (stride * ((text.length - 4) / stride) + k.val) 0)) ∧
        sleepEvents u.out = sleepEvents s.out ++ List.replicate (scrollSteps text.length stride) (.sleep delay) ∧
        u.cur = s.cur + BitVec.ofNat 2 (ticksIn ts) ∧ u.mode = .running

/-- The operand limits of SCROLL (R117), whole: a stride below 1 or a negative delay is refused; a delay of 0 is allowed
and sleeps 0; a stride larger than the text gives one step. -/
def Obligations.ScrollOperandLimits : Prop :=
  ∀ (s : State) (text : List Byte), s.mode = .running →
    (∀ delay stride : Int, stride < 1 ∨ delay < 0 →
      exec (.scroll text delay stride) s = .refused .badScrollOperand) ∧
    (∀ stride : Int, 1 ≤ stride → ∃ t as, exec (.scroll text 0 stride) s = .next t ∧ t.pending = as ++ s.pending ∧
      ∀ ms, Action.sleep ms ∈ as → ms = 0) ∧
    (∀ (delay : Nat) (stride : Nat), 4 ≤ text.length → text.length < stride →
      exec (.scroll text delay stride) s = .next
        { s with pending := windowAt text 0 ++ [.sleep delay] ++ s.pending })

/-- None of the host's text operations touches anything but the buffer and the main context's own work (R119). -/
def Obligations.TextOperationsTouchOnlyTheBuffer : Prop :=
  ∀ (s t : State) (i : Instr),
    ((∃ p ch, i = .setchar p ch) ∨ i = .clear ∨ (∃ text, i = .setstring text) ∨
      (∃ text delay stride, i = .scroll text delay stride)) →
    exec i s = .next t → t = { s with buf := t.buf, pending := t.pending }

/-- One action of an operation in progress: a slot write changes one slot and nothing else, a SLEEP adds its event and
changes nothing else (R38, R116), whether the schedule gives the main context its turn or is used up (log 9). -/
def Obligations.MainContextDoesOneActionAtATime : Prop :=
  ∀ (s : State) (rest : List Action) (ts : List Turn), (s.turns = .main :: ts ∨ s.turns = [] ∧ ts = []) →
    (∀ p v, s.pending = .store p v :: rest →
      step s = .next { s with pending := rest, turns := ts, buf := s.buf.set p.toNat v }) ∧
    (∀ ms, s.pending = .sleep ms :: rest →
      step s = .next { s with pending := rest, turns := ts, out := s.out ++ [.sleep ms] })

/-! Font. -/

/-- LOOKUP (R67): the byte of the font, no state of the block written; the ends of the range and the digit 0
of a legal font. That the returned byte is seen in the record `lookedUp` is the model's choice (log 12), and that LOOKUP
answers before CONFIGURE too is its inference (log 15). -/
def Obligations.LookupReadsTheFont : Prop :=
  ∀ (s : State) (code : Byte),
    (∀ _ : 0x20 ≤ code.toNat, ∀ h : code.toNat ≤ 0x60,
      exec (.lookup code) s = .next { s with lookedUp := some (s.font[code.toNat - 0x20]'(by omega)) }) ∧
    (FontLegal s.font → exec (.lookup 0x20#8) s = .next { s with lookedUp := some 0x00#8 }) ∧
    exec (.lookup 0x60#8) s = .next { s with lookedUp := some (s.font[64]) } ∧
    (FontLegal s.font → exec (.lookup 0x30#8) s = .next { s with lookedUp := some 0xFC#8 })

/-- The font never changes (R72): no step, of any agent, writes it. -/
def Obligations.FontNeverChanges : Prop := ∀ s t : State, step s = .next t → t.font = s.font

/-- Two codes of a legal font give 0x92 and two give 0x38 (R71). The results are seen in the record `lookedUp`, the
model's choice (log 12), and in either mode, its inference (log 15). -/
def Obligations.FontIsNotOneToOne : Prop :=
  ∀ s : State, s.Inv →
    ∃ c1 c2 c3 c4 : Byte, c1 ≠ c2 ∧ c3 ≠ c4 ∧
      exec (.lookup c1) s = .next { s with lookedUp := some 0x92#8 } ∧
      exec (.lookup c2) s = .next { s with lookedUp := some 0x92#8 } ∧
      exec (.lookup c3) s = .next { s with lookedUp := some 0x38#8 } ∧
      exec (.lookup c4) s = .next { s with lookedUp := some 0x38#8 }

/-! The wire. -/

/-- RENDER (R82), whole: the four events of one frame, and nothing of the block changed but the lines (with them the
chain outside). -/
def Obligations.RenderSendsOneFrame : Prop :=
  ∀ (s : State) (x : Byte) (p : Nat), s.mode = .running → p < 4 →
    ∃ (lines : Option Levels) (chain : Chain), exec (.render x p) s = .next
      { s with
        lines := lines, chain := chain,
        out := s.out ++ [.write s.cfg.latch false,
          .shift s.cfg.data s.cfg.clock ((s.cfg.mask ^^^ 0x7F#8) >>> p),
          .shift s.cfg.data s.cfg.clock (s.cfg.mask ^^^ x),
          .write s.cfg.latch true] }

/-- Operands outside their range are refused under a name of their own (R107, R94, R73; the spec's decision D10): never
wrapped, clamped or read past the table. -/
def Obligations.OutOfRangeOperandsAreRefused : Prop :=
  ∀ (s : State) (x : Byte) (p : Nat),
    (s.mode = .running → 3 < p → exec (.setchar p x) s = .refused .positionOutOfRange) ∧
    (s.mode = .running → 3 < p → exec (.render x p) s = .refused .positionOutOfRange) ∧
    (x.toNat < 0x20 ∨ 0x60 < x.toNat → exec (.lookup x) s = .refused .fontIndexOutOfRange)

/-- The digit-select byte (R54), whole: the formula, its eight values, one-hot for anode and not one-cold for cathode. -/
def Obligations.DigitSelectByte : Prop :=
  (∀ (mask : Byte) (p : Position), digitSelect mask p = (mask ^^^ 0x7F#8) >>> p.toNat) ∧
  digitSelect 0xFF#8 0 = 0x80#8 ∧ digitSelect 0xFF#8 1 = 0x40#8 ∧
  digitSelect 0xFF#8 2 = 0x20#8 ∧ digitSelect 0xFF#8 3 = 0x10#8 ∧
  digitSelect 0x00#8 0 = 0x7F#8 ∧ digitSelect 0x00#8 1 = 0x3F#8 ∧
  digitSelect 0x00#8 2 = 0x1F#8 ∧ digitSelect 0x00#8 3 = 0x0F#8 ∧
  (∀ (p : Position) (j : Fin 8),
    (digitSelect 0xFF#8 p).getLsbD j = decide (j.val = 7 - p.toNat) ∧
    (digitSelect 0x00#8 p).getLsbD j = decide (j.val < 7 - p.toNat))

/-- The segment byte (R55), whole. -/
def Obligations.SegmentByte : Prop :=
  (∀ mask x : Byte, segmentByte mask x = mask ^^^ x) ∧
  (∀ x : Byte, (segmentByte 0xFF#8 x).toNat = 255 - x.toNat ∧ segmentByte 0x00#8 x = x) ∧
  segmentByte 0xFF#8 0xFC#8 = 0x03#8 ∧ segmentByte 0x00#8 0xFC#8 = 0xFC#8

/-- After a complete frame the outputs hold the two bytes, bits reversed, DS in the far half (R46); the lines are at
LATCH = 1, SCLK = 0, SDATA = SG[7] (R26). The clock must rest low before (R87). It rests on the presumed pin-level form
and chain (log 13, log 14). -/
def Obligations.FrameReachesTheOutputs : Prop :=
  ∀ (s : State) (x : Byte) (p : Position) (lv : Levels), s.mode = .running →
    s.cfg.latch ≠ s.cfg.clock → s.cfg.latch ≠ s.cfg.data → s.cfg.clock ≠ s.cfg.data →
    s.lines = some lv → lv.sclk = false →
    ∃ t, exec (.render x p.toNat) s = .next t ∧
      (∀ i : Fin 8, t.chain.q.getLsbD (15 - i.val) = (digitSelect s.cfg.mask p).getLsbD i ∧
        t.chain.q.getLsbD (7 - i.val) = (segmentByte s.cfg.mask x).getLsbD i) ∧
      t.chain.q.toNat =
        (digitSelect s.cfg.mask p).reverse.toNat * 256 + (segmentByte s.cfg.mask x).reverse.toNat ∧
      t.chain.sr = t.chain.q ∧
      t.lines = some ⟨true, false, (segmentByte s.cfg.mask x).getLsbD 7⟩

/-- A clock that is high before the first frame costs the first bit (R87): the farthest output keeps what the nearest
stage held, the others are as after any frame (log 13, log 14). -/
def Obligations.ClockHighLosesTheFirstBit : Prop :=
  ∀ (s : State) (x : Byte) (p : Position) (lv : Levels), s.mode = .running →
    s.cfg.latch ≠ s.cfg.clock → s.cfg.latch ≠ s.cfg.data → s.cfg.clock ≠ s.cfg.data →
    s.lines = some lv → lv.sclk = true →
    ∃ t, exec (.render x p.toNat) s = .next t ∧
      t.chain.q.getLsbD 15 = s.chain.sr.getLsbD 0 ∧
      (∀ i : Fin 8, i.val ≠ 0 → t.chain.q.getLsbD (15 - i.val) = (digitSelect s.cfg.mask p).getLsbD i) ∧
      (∀ i : Fin 8, t.chain.q.getLsbD (7 - i.val) = (segmentByte s.cfg.mask x).getLsbD i)

/-- What the display shows after a frame (R47, R152): segment j of position q is lit exactly when q is enabled and the
pattern's bit j is set; anode enables position p alone, cathode positions 0 to p; the lines DS[3:0] are inactive. It
rests on the presumed pin-level form and chain (log 13, log 14). -/
def Obligations.DisplayShowsThePattern : Prop :=
  ∀ (s : State) (x : Byte) (p : Position) (lv : Levels), s.Inv → s.mode = .running → s.lines = some lv →
    lv.sclk = false →
    ∃ t, exec (.render x p.toNat) s = .next t ∧
      (∀ q : Position, t.enabled q = if s.cfg.mask = 0xFF#8 then decide (q = p) else decide (q ≤ p)) ∧
      (∀ (q : Position) (j : Fin 8), t.lit q j = (t.enabled q && x.getLsbD j)) ∧
      (∀ j : Fin 8, j.val < 4 → t.chain.digitLine j = decide (s.cfg.mask ≠ 0xFF#8))

/-- The latched outputs change at no other moment of a frame than the latch's rise (R45; log 14): shifting leaves
them. -/
def Obligations.ShiftingLeavesTheOutputs : Prop :=
  ∀ (s : State) (v : Byte), s.mode = .running →
    s.cfg.latch ≠ s.cfg.clock → s.cfg.latch ≠ s.cfg.data →
    ∃ t, exec (.shiftout s.cfg.data s.cfg.clock v) s = .next t ∧ t.chain.q = s.chain.q

/-- SHIFTOUT (R86), whole: one SHIFT event for the pins and the byte given, and nothing of the block changed but the
lines (with them the chain outside); a byte travels bit 0 first, as in the rule's example. -/
def Obligations.ShiftoutRecordsItsByte : Prop :=
  (∀ (s : State) (d c : PinId) (v : Byte), s.mode = .running →
    ∃ (lines : Option Levels) (chain : Chain), exec (.shiftout d c v) s = .next
      { s with lines := lines, chain := chain, out := s.out ++ [.shift d c v] }) ∧
  (∀ v : Byte, lsbFirst v = (List.range 8).map v.getLsbD) ∧
  lsbFirst 0x03#8 = [true, true, false, false, false, false, false, false]

/-- The pin-level form of a SHIFT (R87): 24 writes, for each bit from bit 0 on the data level, the clock high, the clock
low; and with the block's own pins and the clock at rest, eight shifts of the chain (log 13, log 14). -/
def Obligations.ShiftClocksEightBitsLsbFirst : Prop :=
  (∀ (d c : PinId) (v : Byte), (Event.shift d c v).pinWrites =
    (List.range 8).flatMap fun i => [(d, v.getLsbD i), (c, true), (c, false)]) ∧
  ∀ (s : State) (v : Byte) (lv : Levels), s.mode = .running →
    s.cfg.latch ≠ s.cfg.clock → s.cfg.latch ≠ s.cfg.data → s.cfg.clock ≠ s.cfg.data →
    s.lines = some lv → lv.sclk = false →
    ∃ t, exec (.shiftout s.cfg.data s.cfg.clock v) s = .next t ∧
      t.lines = some ⟨lv.latch, false, v.getLsbD 7⟩ ∧
      (∀ i : Fin 8, t.chain.sr.getLsbD (7 - i.val) = v.getLsbD i ∧
        t.chain.sr.getLsbD (8 + i.val) = s.chain.sr.getLsbD i)

/-! The refresh. -/

/-- TICK (R95): none before CONFIGURE; otherwise the slot at the cursor is looked up and rendered at the cursor's
position and the cursor advances modulo 4, with nothing else of the block changed; the record `lookedUp` is the model's
own (log 12). -/
def Obligations.TickRendersTheSlotAtTheCursor : Prop :=
  ∀ s : State,
    (s.mode = .unconfigured → exec .tick s = .refused .timerNotAttached) ∧
    (s.mode = .running → ∀ h : (s.slot s.cur).toNat ≤ 64,
      ∃ (lines : Option Levels) (chain : Chain), exec .tick s = .next
        { s with
          cur := BitVec.ofNat 2 ((s.cur.toNat + 1) % 4),
          lookedUp := some (s.font[(s.slot s.cur).toNat]'(by omega)),
          lines := lines, chain := chain,
          out := s.out ++ [.write s.cfg.latch false,
            .shift s.cfg.data s.cfg.clock ((s.cfg.mask ^^^ 0x7F#8) >>> s.cur.toNat),
            .shift s.cfg.data s.cfg.clock (s.cfg.mask ^^^ s.font[(s.slot s.cur).toNat]'(by omega)),
            .write s.cfg.latch true] })

/-- TICK is LOOKUP of the slot's code, RENDER of what it returned at the cursor, and the cursor's advance (R95, R96).
That TICK leaves the record `lookedUp` as the LOOKUP does is the model's choice (log 12). -/
def Obligations.TickIsLookupThenRenderThenAdvance : Prop :=
  ∀ s : State, s.Inv → s.mode = .running →
    ∃ (s1 s2 : State) (x : Byte), exec (.lookup (s.slot s.cur + 0x20#8)) s = .next s1 ∧ s1.lookedUp = some x ∧
      exec (.render x s.cur.toNat) s1 = .next s2 ∧ exec .tick s = .next { s2 with cur := s.cur + 1 }

/-- n TICKs in a row visit the positions in turn from the cursor on, each sending the pattern its slot selects (R97,
R99, R102), and leave the buffer alone. -/
def Obligations.TicksVisitThePositionsInTurn : Prop :=
  ∀ (s : State) (n : Nat) (rest : List Turn), s.Inv → s.mode = .running →
    s.turns = List.replicate n .tick ++ rest →
    ∃ t, run n s = .next t ∧ t.cur = s.cur + BitVec.ofNat 2 n ∧ t.buf = s.buf ∧ t.turns = rest ∧
      t.pending = s.pending ∧ t.port = s.port ∧
      t.out = s.out ++ (List.range n).flatMap fun k =>
        frameEvents s.cfg (digitSelect s.cfg.mask (s.cur + BitVec.ofNat 2 k))
          (segmentByte s.cfg.mask (s.patternAt (s.cur + BitVec.ofNat 2 k)))

/-- A slot written between two visits shows from the next visit on (R100, R41): whatever the slot, the cursor and the
place of the SETCHAR word, the TICKs before it send the old pattern of every position they visit, and those after it the
new pattern of the slot written and the old one of the others. (S6 and P4: cursor 0, slot 2, eight TICKs in all, the word
after the third to the sixth.) -/
def Obligations.SlotWrittenBetweenVisitsShowsAtTheNext : Prop :=
  ∀ (s : State) (p : Position) (ch : Byte) (w : Word) (before after : Nat) (cs : List Command) (rest : List Turn),
    s.Inv → s.mode = .running → s.pending = [] → decode w = .ok (.setchar p.toNat ch) → s.port = .word w :: cs →
    s.turns = List.replicate before .tick ++ .main :: (List.replicate after .tick ++ rest) →
    ∃ t, run (before + 1 + after) s = .next t ∧ t.cur = s.cur + BitVec.ofNat 2 (before + after) ∧
      t.buf = s.buf.set p.toNat (fontIndex ch) ∧ t.port = cs ∧ t.turns = rest ∧
      t.out = s.out ++
        ((List.range before).flatMap fun k =>
          frameEvents s.cfg (digitSelect s.cfg.mask (s.cur + BitVec.ofNat 2 k))
            (segmentByte s.cfg.mask (s.patternAt (s.cur + BitVec.ofNat 2 k)))) ++
        (List.range after).flatMap fun k =>
          frameEvents s.cfg (digitSelect s.cfg.mask (s.cur + BitVec.ofNat 2 (before + k)))
            (segmentByte s.cfg.mask
              (if s.cur + BitVec.ofNat 2 (before + k) = p then (s.fontAt (fontIndex ch)).getD 0
              else s.patternAt (s.cur + BitVec.ofNat 2 (before + k))))

/-- With the host silent the refresh goes on by itself (log 23), and within four TICKs every position has been rendered
with what its slot holds (R139, R162). -/
def Obligations.EveryPositionRefreshedWithinFourTicks : Prop :=
  ∀ (s : State) (p : Position), s.Inv → s.mode = .running → s.pending = [] → s.port = [] → s.turns = [] →
    ∃ k t u, k < 4 ∧ run k s = .next t ∧ t.cur = p ∧ step t = .next u ∧
      u.out = t.out ++ frameEvents s.cfg (digitSelect s.cfg.mask p) (segmentByte s.cfg.mask (s.patternAt p)) ∧
      u.buf = s.buf

/-- The timer preempts the main context where it stands (R132, R133): the step is a TICK, and the main context's work,
its commands, the buffer and the configuration are as they were. -/
def Obligations.TimerPreemptsTheMainContext : Prop :=
  ∀ (s : State) (ts : List Turn), s.Inv → s.mode = .running → s.turns = .tick :: ts →
    step s = exec .tick { s with turns := ts } ∧
    ∃ t, step s = .next t ∧ t.pending = s.pending ∧ t.port = s.port ∧ t.buf = s.buf ∧ t.cfg = s.cfg ∧
      t.mode = s.mode ∧ t.timer = s.timer ∧ t.font = s.font ∧ t.turns = ts

/-! The whole machine. -/

/-- Every step keeps the invariant, from every state that has it. -/
def Obligations.StepKeepsTheInvariant : Prop := ∀ s t : State, s.Inv → step s = .next t → t.Inv

/-- Only reset leaves RUNNING (R139, R141), and nothing but reset changes the configuration, the timer's attachment or
that the lines are driven while running (R19, R20, R125, R155). -/
def Obligations.ConfigurationIsFixedUntilReset : Prop :=
  ∀ s t : State, s.mode = .running → s.turns.head? ≠ some .reset → step s = .next t →
    t.mode = .running ∧ t.cfg = s.cfg ∧ t.timer = s.timer ∧ t.lines.isSome = s.lines.isSome ∧ t.resets = s.resets

/-- While running the cursor moves only by a TICK: a step either is TICK, run on the state with the turn and any TICK word
taken, which sends the frame of the slot at the cursor, moves the cursor by one and leaves the buffer and the main
context's work alone; or it leaves the cursor, the lines and the chain alone and sends no frame (R17, R41, R119, R136). -/
def Obligations.OnlyTicksMoveTheCursor : Prop :=
  ∀ s t : State, s.mode = .running → s.turns.head? ≠ some .reset → step s = .next t →
    (∃ cs, (s.port = cs ∨ s.port = .word 0x8000#16 :: cs) ∧
      exec .tick { s with turns := s.turns.tail, port := cs } = .next t ∧
      t.cur = s.cur + 1 ∧ t.buf = s.buf ∧ t.pending = s.pending ∧
      t.out = s.out ++ frameEvents s.cfg (digitSelect s.cfg.mask s.cur)
        (segmentByte s.cfg.mask (s.patternAt s.cur))) ∨
    (t.cur = s.cur ∧ t.lines = s.lines ∧ t.chain = s.chain ∧
      (t.out = s.out ∨ ∃ ms, t.out = s.out ++ [.sleep ms]))

/-- The trace only grows (R11), until a reset starts it anew. -/
def Obligations.TraceOnlyGrows : Prop :=
  ∀ s t : State, s.turns.head? ≠ some .reset → step s = .next t → s.out <+: t.out

/-- A block without a command to refuse never stops (R121: no fatal condition): every step answers a next state. -/
def Obligations.BlockWithoutCommandsNeverStops : Prop :=
  ∀ s : State, s.Inv → s.port = [] → ∃ t, step s = .next t

/-- No host text can stop a running block (R63, R121): SETSTRING of any four bytes and SETCHAR of any byte complete. -/
def Obligations.NoTextStopsTheBlock : Prop :=
  ∀ s : State, s.mode = .running →
    (∀ (p : Position) (ch : Byte), ∃ t, exec (.setchar p.toNat ch) s = .next t) ∧
    (∀ text : List Byte, 4 ≤ text.length → ∃ t, exec (.setstring text) s = .next t) ∧
    (∀ text : List Byte, ∃ t, exec (.scroll text) s = .next t)

/-! Words and steps. -/

/-- A step issues the word at the port (R40, R61): when no operation is in progress, it is the decoded operation run on
the state with the word and the turn taken; a reserved word is refused (R62). -/
def Obligations.StepRunsTheDecodedWord : Prop :=
  ∀ (s : State) (w : Word) (cs : List Command) (ts : List Turn), s.pending = [] → s.port = .word w :: cs →
    (s.turns = .main :: ts ∨ s.turns = [] ∧ ts = []) →
    (∀ i, decode w = .ok i → step s = exec i { s with port := cs, turns := ts }) ∧
    (∀ e, decode w = .error e → step s = .refused .reservedStimulus)

/-- A step issues the host's call of an operation, and refuses a call of TICK or of an internal operation (R95, R61,
R101; the model's name for it, log 10). -/
def Obligations.StepRunsTheHostsCall : Prop :=
  ∀ (s : State) (i : Instr) (cs : List Command) (ts : List Turn), s.pending = [] → s.port = .call i :: cs →
    (s.turns = .main :: ts ∨ s.turns = [] ∧ ts = []) →
    step s =
      match i with
      | .tick | .lookup _ | .render _ _ | .shiftout _ _ _ => .refused .notHostCallable
      | _ => exec i { s with port := cs, turns := ts }

/-- A word placed as the next command is the one the next step runs (log 24). -/
def Obligations.PlacedWordIsRunNext : Prop :=
  ∀ (s : State) (nbits w : Nat) (i : Instr), decodeTableWord nbits w = some i →
    step (s.withFetchWord nbits w) = exec i { s with pending := [] }

/-- The defined words are 2 + 1024 + 1 + 1 (R61, R62): 0x1000, 0x1001, 0x2000 to 0x23FF, 0x3000, 0x8000; every other
word is refused when the step comes to it. -/
def Obligations.ReservedWordsAreRefused : Prop :=
  (∀ w : Word, (∃ i, decode w = .ok i) ↔
    (w.toNat = 0x1000 ∨ w.toNat = 0x1001 ∨ 0x2000 ≤ w.toNat ∧ w.toNat ≤ 0x23FF ∨ w.toNat = 0x3000 ∨
      w.toNat = 0x8000)) ∧
  (∀ (s : State) (w : Word) (cs : List Command), s.pending = [] → s.turns = [] → s.port = .word w :: cs →
    ¬ (w.toNat = 0x1000 ∨ w.toNat = 0x1001 ∨ 0x2000 ≤ w.toNat ∧ w.toNat ≤ 0x23FF ∨ w.toNat = 0x3000 ∨
      w.toNat = 0x8000) →
    step s = .refused .reservedStimulus)

/-- Words written out from the map of R61 and the vectors V-DEC decode to what they stand for. -/
def Obligations.WordsOfTheMapDecode : Prop :=
  decode 0x1000#16 = .ok (.configure .latchPin .clockPin .dataPin false) ∧
  decode 0x1001#16 = .ok (.configure .latchPin .clockPin .dataPin true) ∧
  decode 0x2354#16 = .ok (.setchar 3 0x54#8) ∧ decode 0x20FF#16 = .ok (.setchar 0 0xFF#8) ∧
  decode 0x3000#16 = .ok .clear ∧ decode 0x8000#16 = .ok .tick ∧
  decode 0x2400#16 = .error (.reservedStimulus 0x2400#16)

/-- No two rows of the opcode map select one word (R61). -/
def Obligations.OpcodeRowsNeverOverlap : Prop :=
  ∀ (w : Word) (r r' : OpcodeRow), r ∈ opcodeMap → r' ∈ opcodeMap → r.selects w → r'.selects w → r = r'

/-- Decoding an encoded operation gives it back, for every operation that has a word, at every operand (R61). -/
def Obligations.DecodeInvertsEncode : Prop :=
  ∀ i : Instr, i.hasWord → ∃ w, encode i = some w ∧ decode w = .ok i

/-- Each defined word has one meaning: encoding what a word decodes to gives the word back (R61). -/
def Obligations.EncodeInvertsDecode : Prop :=
  ∀ (w : Word) (i : Instr), decode w = .ok i → encode i = some w ∧ i.hasWord

/-- Every operation's word, if it has one, decodes to it: per constructor (Laws/PerInstr.lean). -/
def Obligations.EveryWordDecodesToItsOperation : Prop := ∀ i : Instr, Sys2Proof.Laws.WordDecodes.Statement i
end

