-- ==== Sys2Proof/Laws/State.lean ====
section
/-! SUPPORT. For each update of the state, one lemma per field: what the field holds afterwards. -/

namespace Sys2Proof.Machine

open Sys2Proof

theorem State.ext_fields {s t : State} (h1 : s.mode = t.mode) (h2 : s.buf = t.buf) (h3 : s.cur = t.cur)
    (h4 : s.cfg = t.cfg) (h5 : s.lines = t.lines) (h6 : s.font = t.font) (h7 : s.chain = t.chain)
    (h8 : s.timer = t.timer) (h9 : s.out = t.out) (h10 : s.lookedUp = t.lookedUp) (h11 : s.pending = t.pending)
    (h12 : s.port = t.port) (h13 : s.turns = t.turns) (h14 : s.resets = t.resets) : s = t := by
  cases s
  cases t
  simp_all

/-! BUF[p] <- v. -/

@[simp] theorem State.setSlot_mode (s : State) (p : Position) (v : Byte) : (s.setSlot p v).mode = s.mode := rfl
@[simp] theorem State.setSlot_buf (s : State) (p : Position) (v : Byte) : (s.setSlot p v).buf = s.buf.set p.toNat v := rfl
@[simp] theorem State.setSlot_cur (s : State) (p : Position) (v : Byte) : (s.setSlot p v).cur = s.cur := rfl
@[simp] theorem State.setSlot_cfg (s : State) (p : Position) (v : Byte) : (s.setSlot p v).cfg = s.cfg := rfl
@[simp] theorem State.setSlot_lines (s : State) (p : Position) (v : Byte) : (s.setSlot p v).lines = s.lines := rfl
@[simp] theorem State.setSlot_font (s : State) (p : Position) (v : Byte) : (s.setSlot p v).font = s.font := rfl
@[simp] theorem State.setSlot_chain (s : State) (p : Position) (v : Byte) : (s.setSlot p v).chain = s.chain := rfl
@[simp] theorem State.setSlot_timer (s : State) (p : Position) (v : Byte) : (s.setSlot p v).timer = s.timer := rfl
@[simp] theorem State.setSlot_out (s : State) (p : Position) (v : Byte) : (s.setSlot p v).out = s.out := rfl
@[simp] theorem State.setSlot_lookedUp (s : State) (p : Position) (v : Byte) : (s.setSlot p v).lookedUp = s.lookedUp := rfl
@[simp] theorem State.setSlot_pending (s : State) (p : Position) (v : Byte) : (s.setSlot p v).pending = s.pending := rfl
@[simp] theorem State.setSlot_port (s : State) (p : Position) (v : Byte) : (s.setSlot p v).port = s.port := rfl
@[simp] theorem State.setSlot_turns (s : State) (p : Position) (v : Byte) : (s.setSlot p v).turns = s.turns := rfl
@[simp] theorem State.setSlot_resets (s : State) (p : Position) (v : Byte) : (s.setSlot p v).resets = s.resets := rfl

/-! The record of a LOOKUP. -/

@[simp] theorem State.recordLookup_mode (s : State) (x : Byte) : (s.recordLookup x).mode = s.mode := rfl
@[simp] theorem State.recordLookup_buf (s : State) (x : Byte) : (s.recordLookup x).buf = s.buf := rfl
@[simp] theorem State.recordLookup_cur (s : State) (x : Byte) : (s.recordLookup x).cur = s.cur := rfl
@[simp] theorem State.recordLookup_cfg (s : State) (x : Byte) : (s.recordLookup x).cfg = s.cfg := rfl
@[simp] theorem State.recordLookup_lines (s : State) (x : Byte) : (s.recordLookup x).lines = s.lines := rfl
@[simp] theorem State.recordLookup_font (s : State) (x : Byte) : (s.recordLookup x).font = s.font := rfl
@[simp] theorem State.recordLookup_chain (s : State) (x : Byte) : (s.recordLookup x).chain = s.chain := rfl
@[simp] theorem State.recordLookup_timer (s : State) (x : Byte) : (s.recordLookup x).timer = s.timer := rfl
@[simp] theorem State.recordLookup_out (s : State) (x : Byte) : (s.recordLookup x).out = s.out := rfl
@[simp] theorem State.recordLookup_lookedUp (s : State) (x : Byte) : (s.recordLookup x).lookedUp = some x := rfl
@[simp] theorem State.recordLookup_pending (s : State) (x : Byte) : (s.recordLookup x).pending = s.pending := rfl
@[simp] theorem State.recordLookup_port (s : State) (x : Byte) : (s.recordLookup x).port = s.port := rfl
@[simp] theorem State.recordLookup_turns (s : State) (x : Byte) : (s.recordLookup x).turns = s.turns := rfl
@[simp] theorem State.recordLookup_resets (s : State) (x : Byte) : (s.recordLookup x).resets = s.resets := rfl

/-! The cursor's advance. -/

@[simp] theorem State.advanceCursor_mode (s : State) : (s.advanceCursor).mode = s.mode := rfl
@[simp] theorem State.advanceCursor_buf (s : State) : (s.advanceCursor).buf = s.buf := rfl
@[simp] theorem State.advanceCursor_cur (s : State) : (s.advanceCursor).cur = s.cur + 1 := rfl
@[simp] theorem State.advanceCursor_cfg (s : State) : (s.advanceCursor).cfg = s.cfg := rfl
@[simp] theorem State.advanceCursor_lines (s : State) : (s.advanceCursor).lines = s.lines := rfl
@[simp] theorem State.advanceCursor_font (s : State) : (s.advanceCursor).font = s.font := rfl
@[simp] theorem State.advanceCursor_chain (s : State) : (s.advanceCursor).chain = s.chain := rfl
@[simp] theorem State.advanceCursor_timer (s : State) : (s.advanceCursor).timer = s.timer := rfl
@[simp] theorem State.advanceCursor_out (s : State) : (s.advanceCursor).out = s.out := rfl
@[simp] theorem State.advanceCursor_lookedUp (s : State) : (s.advanceCursor).lookedUp = s.lookedUp := rfl
@[simp] theorem State.advanceCursor_pending (s : State) : (s.advanceCursor).pending = s.pending := rfl
@[simp] theorem State.advanceCursor_port (s : State) : (s.advanceCursor).port = s.port := rfl
@[simp] theorem State.advanceCursor_turns (s : State) : (s.advanceCursor).turns = s.turns := rfl
@[simp] theorem State.advanceCursor_resets (s : State) : (s.advanceCursor).resets = s.resets := rfl

/-! The issue of a group of actions. -/

@[simp] theorem State.issue_mode (s : State) (as : List Action) : (s.issue as).mode = s.mode := rfl
@[simp] theorem State.issue_buf (s : State) (as : List Action) : (s.issue as).buf = s.buf := rfl
@[simp] theorem State.issue_cur (s : State) (as : List Action) : (s.issue as).cur = s.cur := rfl
@[simp] theorem State.issue_cfg (s : State) (as : List Action) : (s.issue as).cfg = s.cfg := rfl
@[simp] theorem State.issue_lines (s : State) (as : List Action) : (s.issue as).lines = s.lines := rfl
@[simp] theorem State.issue_font (s : State) (as : List Action) : (s.issue as).font = s.font := rfl
@[simp] theorem State.issue_chain (s : State) (as : List Action) : (s.issue as).chain = s.chain := rfl
@[simp] theorem State.issue_timer (s : State) (as : List Action) : (s.issue as).timer = s.timer := rfl
@[simp] theorem State.issue_out (s : State) (as : List Action) : (s.issue as).out = s.out := rfl
@[simp] theorem State.issue_lookedUp (s : State) (as : List Action) : (s.issue as).lookedUp = s.lookedUp := rfl
@[simp] theorem State.issue_pending (s : State) (as : List Action) : (s.issue as).pending = as ++ s.pending := rfl
@[simp] theorem State.issue_port (s : State) (as : List Action) : (s.issue as).port = s.port := rfl
@[simp] theorem State.issue_turns (s : State) (as : List Action) : (s.issue as).turns = s.turns := rfl
@[simp] theorem State.issue_resets (s : State) (as : List Action) : (s.issue as).resets = s.resets := rfl

/-! CONFIGURE's registers. -/

@[simp] theorem State.setConfig_mode (s : State) (l c d : PinId) (a : Bool) : (s.setConfig l c d a).mode = s.mode := rfl
@[simp] theorem State.setConfig_buf (s : State) (l c d : PinId) (a : Bool) : (s.setConfig l c d a).buf = s.buf := rfl
@[simp] theorem State.setConfig_cur (s : State) (l c d : PinId) (a : Bool) : (s.setConfig l c d a).cur = s.cur := rfl
@[simp] theorem State.setConfig_cfg (s : State) (l c d : PinId) (a : Bool) : (s.setConfig l c d a).cfg = ⟨polarityMask a, l, c, d⟩ := rfl
@[simp] theorem State.setConfig_lines (s : State) (l c d : PinId) (a : Bool) : (s.setConfig l c d a).lines = s.lines := rfl
@[simp] theorem State.setConfig_font (s : State) (l c d : PinId) (a : Bool) : (s.setConfig l c d a).font = s.font := rfl
@[simp] theorem State.setConfig_chain (s : State) (l c d : PinId) (a : Bool) : (s.setConfig l c d a).chain = s.chain := rfl
@[simp] theorem State.setConfig_timer (s : State) (l c d : PinId) (a : Bool) : (s.setConfig l c d a).timer = s.timer := rfl
@[simp] theorem State.setConfig_out (s : State) (l c d : PinId) (a : Bool) : (s.setConfig l c d a).out = s.out := rfl
@[simp] theorem State.setConfig_lookedUp (s : State) (l c d : PinId) (a : Bool) : (s.setConfig l c d a).lookedUp = s.lookedUp := rfl
@[simp] theorem State.setConfig_pending (s : State) (l c d : PinId) (a : Bool) : (s.setConfig l c d a).pending = s.pending := rfl
@[simp] theorem State.setConfig_port (s : State) (l c d : PinId) (a : Bool) : (s.setConfig l c d a).port = s.port := rfl
@[simp] theorem State.setConfig_turns (s : State) (l c d : PinId) (a : Bool) : (s.setConfig l c d a).turns = s.turns := rfl
@[simp] theorem State.setConfig_resets (s : State) (l c d : PinId) (a : Bool) : (s.setConfig l c d a).resets = s.resets := rfl

/-! CONFIGURE's buffer and cursor. -/

@[simp] theorem State.clearForBoot_mode (s : State) : (s.clearForBoot).mode = s.mode := rfl
@[simp] theorem State.clearForBoot_buf (s : State) : (s.clearForBoot).buf = #v[0, 0, 0, 0] := rfl
@[simp] theorem State.clearForBoot_cur (s : State) : (s.clearForBoot).cur = 0 := rfl
@[simp] theorem State.clearForBoot_cfg (s : State) : (s.clearForBoot).cfg = s.cfg := rfl
@[simp] theorem State.clearForBoot_lines (s : State) : (s.clearForBoot).lines = s.lines := rfl
@[simp] theorem State.clearForBoot_font (s : State) : (s.clearForBoot).font = s.font := rfl
@[simp] theorem State.clearForBoot_chain (s : State) : (s.clearForBoot).chain = s.chain := rfl
@[simp] theorem State.clearForBoot_timer (s : State) : (s.clearForBoot).timer = s.timer := rfl
@[simp] theorem State.clearForBoot_out (s : State) : (s.clearForBoot).out = s.out := rfl
@[simp] theorem State.clearForBoot_lookedUp (s : State) : (s.clearForBoot).lookedUp = s.lookedUp := rfl
@[simp] theorem State.clearForBoot_pending (s : State) : (s.clearForBoot).pending = s.pending := rfl
@[simp] theorem State.clearForBoot_port (s : State) : (s.clearForBoot).port = s.port := rfl
@[simp] theorem State.clearForBoot_turns (s : State) : (s.clearForBoot).turns = s.turns := rfl
@[simp] theorem State.clearForBoot_resets (s : State) : (s.clearForBoot).resets = s.resets := rfl

/-! One pin write, and the writes of an event: only the lines and the chain move. -/

theorem State.writePin_eq (s : State) (pin : PinId) (level : Bool) :
    s.writePin pin level =
      { s with lines := (s.writePin pin level).lines, chain := (s.writePin pin level).chain } := by
  unfold State.writePin
  split <;> rfl

/-- The writes of a list, in order. -/
abbrev State.writePins (s : State) (ws : List (PinId × Bool)) : State :=
  ws.foldl (fun t w => t.writePin w.1 w.2) s

theorem State.writePins_eq (ws : List (PinId × Bool)) (s : State) :
    s.writePins ws = { s with lines := (s.writePins ws).lines, chain := (s.writePins ws).chain } := by
  induction ws generalizing s with
  | nil => rfl
  | cons w ws ih =>
    have h := ih (s.writePin w.1 w.2)
    simp only [State.writePins, List.foldl_cons] at h ⊢
    rw [h, State.writePin_eq s w.1 w.2]

theorem State.emit_eq (s : State) (e : Event) :
    s.emit e = { s with lines := (s.emit e).lines, chain := (s.emit e).chain, out := s.out ++ [e] } := by
  have h := State.writePins_eq e.pinWrites s
  simp only [State.writePins] at h
  simp only [State.emit]
  rw [h]

/-! `emit(e)`. -/

@[simp] theorem State.emit_mode (s : State) (e : Event) : (s.emit e).mode = s.mode := by rw [State.emit_eq]
@[simp] theorem State.emit_buf (s : State) (e : Event) : (s.emit e).buf = s.buf := by rw [State.emit_eq]
@[simp] theorem State.emit_cur (s : State) (e : Event) : (s.emit e).cur = s.cur := by rw [State.emit_eq]
@[simp] theorem State.emit_cfg (s : State) (e : Event) : (s.emit e).cfg = s.cfg := by rw [State.emit_eq]
@[simp] theorem State.emit_font (s : State) (e : Event) : (s.emit e).font = s.font := by rw [State.emit_eq]
@[simp] theorem State.emit_timer (s : State) (e : Event) : (s.emit e).timer = s.timer := by rw [State.emit_eq]
@[simp] theorem State.emit_out (s : State) (e : Event) : (s.emit e).out = s.out ++ [e] := by rw [State.emit_eq]
@[simp] theorem State.emit_lookedUp (s : State) (e : Event) : (s.emit e).lookedUp = s.lookedUp := by rw [State.emit_eq]
@[simp] theorem State.emit_pending (s : State) (e : Event) : (s.emit e).pending = s.pending := by rw [State.emit_eq]
@[simp] theorem State.emit_port (s : State) (e : Event) : (s.emit e).port = s.port := by rw [State.emit_eq]
@[simp] theorem State.emit_turns (s : State) (e : Event) : (s.emit e).turns = s.turns := by rw [State.emit_eq]
@[simp] theorem State.emit_resets (s : State) (e : Event) : (s.emit e).resets = s.resets := by rw [State.emit_eq]

/-- An event without pin writes moves no line. -/
theorem State.emit_lines_of_no_writes (s : State) (e : Event) (h : e.pinWrites = []) :
    (s.emit e).lines = s.lines ∧ (s.emit e).chain = s.chain := by
  simp [State.emit, h]

@[simp] theorem State.emit_modeOut (s : State) (p : PinId) :
    s.emit (.modeOut p) = { s with out := s.out ++ [.modeOut p] } := rfl
@[simp] theorem State.emit_timerInit (s : State) : s.emit .timerInit = { s with out := s.out ++ [.timerInit] } := rfl
@[simp] theorem State.emit_timerAttach (s : State) (n : Nat) :
    s.emit (.timerAttach n) = { s with out := s.out ++ [.timerAttach n] } := rfl
@[simp] theorem State.emit_sleep (s : State) (n : Nat) : s.emit (.sleep n) = { s with out := s.out ++ [.sleep n] } :=
  rfl

/-! SHIFTOUT. -/

@[simp] theorem State.shiftOut_mode (s : State) (d c : PinId) (v : Byte) : (s.shiftOut d c v).mode = s.mode := State.emit_mode _ _
@[simp] theorem State.shiftOut_buf (s : State) (d c : PinId) (v : Byte) : (s.shiftOut d c v).buf = s.buf := State.emit_buf _ _
@[simp] theorem State.shiftOut_cur (s : State) (d c : PinId) (v : Byte) : (s.shiftOut d c v).cur = s.cur := State.emit_cur _ _
@[simp] theorem State.shiftOut_cfg (s : State) (d c : PinId) (v : Byte) : (s.shiftOut d c v).cfg = s.cfg := State.emit_cfg _ _
@[simp] theorem State.shiftOut_font (s : State) (d c : PinId) (v : Byte) : (s.shiftOut d c v).font = s.font := State.emit_font _ _
@[simp] theorem State.shiftOut_timer (s : State) (d c : PinId) (v : Byte) : (s.shiftOut d c v).timer = s.timer := State.emit_timer _ _
@[simp] theorem State.shiftOut_out (s : State) (d c : PinId) (v : Byte) : (s.shiftOut d c v).out = s.out ++ [.shift d c v] := State.emit_out _ _
@[simp] theorem State.shiftOut_lookedUp (s : State) (d c : PinId) (v : Byte) : (s.shiftOut d c v).lookedUp = s.lookedUp := State.emit_lookedUp _ _
@[simp] theorem State.shiftOut_pending (s : State) (d c : PinId) (v : Byte) : (s.shiftOut d c v).pending = s.pending := State.emit_pending _ _
@[simp] theorem State.shiftOut_port (s : State) (d c : PinId) (v : Byte) : (s.shiftOut d c v).port = s.port := State.emit_port _ _
@[simp] theorem State.shiftOut_turns (s : State) (d c : PinId) (v : Byte) : (s.shiftOut d c v).turns = s.turns := State.emit_turns _ _
@[simp] theorem State.shiftOut_resets (s : State) (d c : PinId) (v : Byte) : (s.shiftOut d c v).resets = s.resets := State.emit_resets _ _

/-! One frame. -/

@[simp] theorem State.sendFrame_mode (s : State) (x : Byte) (p : Position) : (s.sendFrame x p).mode = s.mode := by
  simp [State.sendFrame]
@[simp] theorem State.sendFrame_buf (s : State) (x : Byte) (p : Position) : (s.sendFrame x p).buf = s.buf := by
  simp [State.sendFrame]
@[simp] theorem State.sendFrame_cur (s : State) (x : Byte) (p : Position) : (s.sendFrame x p).cur = s.cur := by
  simp [State.sendFrame]
@[simp] theorem State.sendFrame_cfg (s : State) (x : Byte) (p : Position) : (s.sendFrame x p).cfg = s.cfg := by
  simp [State.sendFrame]
@[simp] theorem State.sendFrame_font (s : State) (x : Byte) (p : Position) : (s.sendFrame x p).font = s.font := by
  simp [State.sendFrame]
@[simp] theorem State.sendFrame_timer (s : State) (x : Byte) (p : Position) : (s.sendFrame x p).timer = s.timer := by
  simp [State.sendFrame]
@[simp] theorem State.sendFrame_out (s : State) (x : Byte) (p : Position) : (s.sendFrame x p).out = 
      s.out ++ frameEvents s.cfg (digitSelect s.cfg.mask p) (segmentByte s.cfg.mask x) := by
  simp [State.sendFrame, frameEvents]
@[simp] theorem State.sendFrame_lookedUp (s : State) (x : Byte) (p : Position) : (s.sendFrame x p).lookedUp = s.lookedUp := by
  simp [State.sendFrame]
@[simp] theorem State.sendFrame_pending (s : State) (x : Byte) (p : Position) : (s.sendFrame x p).pending = s.pending := by
  simp [State.sendFrame]
@[simp] theorem State.sendFrame_port (s : State) (x : Byte) (p : Position) : (s.sendFrame x p).port = s.port := by
  simp [State.sendFrame]
@[simp] theorem State.sendFrame_turns (s : State) (x : Byte) (p : Position) : (s.sendFrame x p).turns = s.turns := by
  simp [State.sendFrame]
@[simp] theorem State.sendFrame_resets (s : State) (x : Byte) (p : Position) : (s.sendFrame x p).resets = s.resets := by
  simp [State.sendFrame]

/-! The body of TICK. -/

@[simp] theorem State.refresh_mode (s : State) (x : Byte) : (s.refresh x).mode = s.mode := by
  simp [State.refresh]
@[simp] theorem State.refresh_buf (s : State) (x : Byte) : (s.refresh x).buf = s.buf := by
  simp [State.refresh]
@[simp] theorem State.refresh_cur (s : State) (x : Byte) : (s.refresh x).cur = s.cur + 1 := by
  simp [State.refresh]
@[simp] theorem State.refresh_cfg (s : State) (x : Byte) : (s.refresh x).cfg = s.cfg := by
  simp [State.refresh]
@[simp] theorem State.refresh_font (s : State) (x : Byte) : (s.refresh x).font = s.font := by
  simp [State.refresh]
@[simp] theorem State.refresh_timer (s : State) (x : Byte) : (s.refresh x).timer = s.timer := by
  simp [State.refresh]
@[simp] theorem State.refresh_out (s : State) (x : Byte) : (s.refresh x).out = 
      s.out ++ frameEvents s.cfg (digitSelect s.cfg.mask s.cur) (segmentByte s.cfg.mask x) := by
  simp [State.refresh]
@[simp] theorem State.refresh_lookedUp (s : State) (x : Byte) : (s.refresh x).lookedUp = some x := by
  simp [State.refresh]
@[simp] theorem State.refresh_pending (s : State) (x : Byte) : (s.refresh x).pending = s.pending := by
  simp [State.refresh]
@[simp] theorem State.refresh_port (s : State) (x : Byte) : (s.refresh x).port = s.port := by
  simp [State.refresh]
@[simp] theorem State.refresh_turns (s : State) (x : Byte) : (s.refresh x).turns = s.turns := by
  simp [State.refresh]
@[simp] theorem State.refresh_resets (s : State) (x : Byte) : (s.refresh x).resets = s.resets := by
  simp [State.refresh]

/-! One action of the main context. -/

@[simp] theorem State.perform_store (s : State) (p : Position) (v : Byte) :
    s.perform (.store p v) = s.setSlot p v := rfl
@[simp] theorem State.perform_sleep (s : State) (ms : Nat) :
    s.perform (.sleep ms) = { s with out := s.out ++ [.sleep ms] } := rfl

@[simp] theorem State.perform_mode (s : State) (a : Action) : (s.perform a).mode = s.mode := by cases a <;> rfl
@[simp] theorem State.perform_cur (s : State) (a : Action) : (s.perform a).cur = s.cur := by cases a <;> rfl
@[simp] theorem State.perform_cfg (s : State) (a : Action) : (s.perform a).cfg = s.cfg := by cases a <;> rfl
@[simp] theorem State.perform_lines (s : State) (a : Action) : (s.perform a).lines = s.lines := by cases a <;> rfl
@[simp] theorem State.perform_font (s : State) (a : Action) : (s.perform a).font = s.font := by cases a <;> rfl
@[simp] theorem State.perform_chain (s : State) (a : Action) : (s.perform a).chain = s.chain := by cases a <;> rfl
@[simp] theorem State.perform_timer (s : State) (a : Action) : (s.perform a).timer = s.timer := by cases a <;> rfl
@[simp] theorem State.perform_lookedUp (s : State) (a : Action) : (s.perform a).lookedUp = s.lookedUp := by cases a <;> rfl
@[simp] theorem State.perform_pending (s : State) (a : Action) : (s.perform a).pending = s.pending := by cases a <;> rfl
@[simp] theorem State.perform_port (s : State) (a : Action) : (s.perform a).port = s.port := by cases a <;> rfl
@[simp] theorem State.perform_turns (s : State) (a : Action) : (s.perform a).turns = s.turns := by cases a <;> rfl
@[simp] theorem State.perform_resets (s : State) (a : Action) : (s.perform a).resets = s.resets := by cases a <;> rfl

/-! Reset, and the interrupt's entry and return. -/

@[simp] theorem State.resetInput_mode (s : State) : s.resetInput.mode = .unconfigured := rfl
@[simp] theorem State.resetInput_lines (s : State) : s.resetInput.lines = none := rfl
@[simp] theorem State.resetInput_font (s : State) : s.resetInput.font = s.font := rfl
@[simp] theorem State.resetInput_timer (s : State) : s.resetInput.timer = none := rfl
@[simp] theorem State.resetInput_out (s : State) : s.resetInput.out = [] := rfl
@[simp] theorem State.resetInput_pending (s : State) : s.resetInput.pending = [] := rfl
@[simp] theorem State.resetInput_port (s : State) : s.resetInput.port = s.port := rfl
@[simp] theorem State.resetInput_turns (s : State) : s.resetInput.turns = s.turns := rfl
@[simp] theorem State.resetInput_resets (s : State) : s.resetInput.resets = s.resets + 1 := rfl
@[simp] theorem State.interruptEntry_eq (s : State) : s.interruptEntry = s := rfl
@[simp] theorem State.interruptReturn_eq (s : State) : s.interruptReturn = s := rfl

end Sys2Proof.Machine
end

