-- ==== Sys2Proof/Laws/Ops.lean ====
section
/-! SUPPORT. What each shared operation does, once: slots, font, character classes, the wire and the chain. -/

namespace Sys2Proof.Machine

open Sys2Proof

/-! Slots. -/

@[simp] theorem State.slot_setSlot_same (s : State) (p : Position) (v : Byte) : (s.setSlot p v).slot p = v := by
  simp [State.slot, State.setSlot]

theorem State.slot_setSlot_other (s : State) (p q : Position) (v : Byte) (h : q ≠ p) :
    (s.setSlot p v).slot q = s.slot q := by
  have h' : p.toNat ≠ q.toNat := fun e => h (BitVec.eq_of_toNat_eq e.symm)
  simp [State.slot, State.setSlot, Vector.getElem_set_ne, h']

theorem State.slot_setSlot (s : State) (p q : Position) (v : Byte) :
    (s.setSlot p v).slot q = if q = p then v else s.slot q := by
  split
  · next h => subst h; simp
  · next h => exact State.slot_setSlot_other s p q v h

/-! Font. -/

theorem State.fontAt_of_le (s : State) (i : Byte) (h : i.toNat ≤ 64) : s.fontAt i = some (s.font[i.toNat]'(by omega)) := by
  have h' : i.toNat < 65 := by omega
  simp [State.fontAt, h']

theorem State.fontAt_none (s : State) (i : Byte) (h : 64 < i.toNat) : s.fontAt i = none := by
  have h' : 65 ≤ i.toNat := by omega
  simp [State.fontAt, h']

theorem State.fontAt_congr {s t : State} (h : s.font = t.font) (i : Byte) : s.fontAt i = t.fontAt i := by
  simp [State.fontAt, h]

theorem fontIndex_le (ch : Byte) : (fontIndex ch).toNat ≤ 64 := by
  revert ch
  decide

theorem polarityMask_legal (a : Bool) : polarityMask a = 0xFF#8 ∨ polarityMask a = 0x00#8 := by
  cases a <;> simp [polarityMask]

/-- Two operands name one pin exactly when their identifiers are equal. -/
theorem samePin_iff (a b : PinOperand) : samePin a b = true ↔ pinValue a = pinValue b := by
  obtain ⟨h1, h2, h3⟩ := Config.wordPins.distinct
  cases a <;> cases b <;>
    first | exact decide_eq_true_iff | simp [samePin, pinValue, h1, h2, h3, h1.symm, h2.symm, h3.symm]

theorem pinsDistinct_iff (l c d : PinOperand) : pinsDistinct l c d = true ↔
    pinValue l ≠ pinValue c ∧ pinValue l ≠ pinValue d ∧ pinValue c ≠ pinValue d := by
  simp [pinsDistinct, ← samePin_iff, and_assoc]

@[simp] theorem positionOperand_toNat (p : Position) : positionOperand p.toNat = some p := by
  have h : p.toNat ≤ 3 := by omega
  simp [positionOperand, h]

theorem positionOperand_none (p : Nat) : positionOperand p = none ↔ 3 < p := by
  unfold positionOperand
  split <;> simp <;> omega

/-! Expansions. -/

theorem setstringActions_none (text : List Byte) : setstringActions text = none ↔ text.length < 4 := by
  match text with
  | [] | [_] | [_, _] | [_, _, _] => simp [setstringActions]
  | a :: b :: c :: d :: rest => simp [setstringActions]

theorem setstringActions_some (a b c d : Byte) (rest : List Byte) :
    setstringActions (a :: b :: c :: d :: rest) = some (windowActions a b c d) := rfl

/-- Every write of a window is of a legal index. -/
theorem windowActions_legal (a b c d : Byte) (p : Position) (v : Byte) (h : Action.store p v ∈ windowActions a b c d) :
    v.toNat ≤ 64 := by
  simp only [windowActions, List.mem_cons, Action.store.injEq, List.not_mem_nil, or_false] at h
  rcases h with ⟨_, rfl⟩ | ⟨_, rfl⟩ | ⟨_, rfl⟩ | ⟨_, rfl⟩ <;> exact fontIndex_le _

theorem setstringActions_legal (text : List Byte) (as : List Action) (h : setstringActions text = some as)
    (p : Position) (v : Byte) (hm : Action.store p v ∈ as) : v.toNat ≤ 64 := by
  match text with
  | [] | [_] | [_, _] | [_, _, _] => simp [setstringActions] at h
  | a :: b :: c :: d :: rest =>
    rw [setstringActions_some] at h
    cases h
    exact windowActions_legal a b c d p v hm

theorem scrollFrom_legal (text : List Byte) (ms stride fuel offset : Nat) (p : Position) (v : Byte)
    (h : Action.store p v ∈ scrollFrom text ms stride fuel offset) : v.toNat ≤ 64 := by
  induction fuel generalizing offset with
  | zero => simp [scrollFrom] at h
  | succ n ih =>
    unfold scrollFrom at h
    split at h
    · next as has =>
      rcases List.mem_append.mp h with hw | hr
      · exact setstringActions_legal _ as has p v hw
      · simp only [List.mem_cons, reduceCtorEq, false_or] at hr
        exact ih _ hr
    · simp at h

theorem clearActions_legal (order : List Position) (p : Position) (v : Byte)
    (h : Action.store p v ∈ clearActions order) : v.toNat ≤ 64 := by
  simp only [clearActions, List.mem_map, Action.store.injEq] at h
  obtain ⟨_, _, _, rfl⟩ := h
  decide

/-! The wire: what a byte and a frame do to the lines and the chain. -/

/-- The lines and the chain after one pin write, as a pair. -/
def wireStep (cfg : DisplayConfig) (x : Levels × Chain) (w : PinId × Bool) : Levels × Chain :=
  (driveLine x.1 cfg w.1 w.2, x.2.follow x.1 (driveLine x.1 cfg w.1 w.2))

theorem State.writePin_wire (s : State) (lv : Levels) (h : s.lines = some lv) (w : PinId × Bool) :
    s.writePin w.1 w.2 =
      { s with lines := some (wireStep s.cfg (lv, s.chain) w).1, chain := (wireStep s.cfg (lv, s.chain) w).2 } := by
  simp [State.writePin, h, wireStep]

theorem State.writePins_wire (ws : List (PinId × Bool)) (s : State) (lv : Levels) (h : s.lines = some lv) :
    s.writePins ws =
      { s with lines := some (ws.foldl (wireStep s.cfg) (lv, s.chain)).1,
               chain := (ws.foldl (wireStep s.cfg) (lv, s.chain)).2 } := by
  induction ws generalizing s lv with
  | nil => cases s; simp_all [State.writePins]
  | cons w ws ih =>
    have hw := State.writePin_wire s lv h w
    have := ih (s.writePin w.1 w.2) (wireStep s.cfg (lv, s.chain) w).1 (by rw [hw])
    simp only [State.writePins, List.foldl_cons] at this ⊢
    rw [this, hw]

theorem State.emit_wire (s : State) (e : Event) (lv : Levels) (h : s.lines = some lv) :
    s.emit e =
      { s with lines := some (e.pinWrites.foldl (wireStep s.cfg) (lv, s.chain)).1,
               chain := (e.pinWrites.foldl (wireStep s.cfg) (lv, s.chain)).2,
               out := s.out ++ [e] } := by
  have := State.writePins_wire e.pinWrites s lv h
  simp only [State.writePins] at this
  simp only [State.emit]
  rw [this]

theorem State.emit_undriven (s : State) (e : Event) (h : s.lines = none) :
    s.emit e = { s with out := s.out ++ [e] } := by
  have key : ∀ ws : List (PinId × Bool), ws.foldl (fun t w => t.writePin w.1 w.2) s = s := by
    intro ws
    induction ws with
    | nil => rfl
    | cons w ws ih =>
      have : s.writePin w.1 w.2 = s := by simp [State.writePin, h]
      rw [List.foldl_cons, this, ih]
  simp [State.emit, key]

theorem State.emit_lines_isSome (s : State) (e : Event) : (s.emit e).lines.isSome = s.lines.isSome := by
  cases h : s.lines with
  | none => rw [State.emit_undriven s e h]; simp [h]
  | some lv => rw [State.emit_wire s e lv h]; rfl

theorem State.sendFrame_lines_isSome (s : State) (x : Byte) (p : Position) :
    (s.sendFrame x p).lines.isSome = s.lines.isSome := by
  simp only [State.sendFrame, State.shiftOut, State.emit_lines_isSome]

/-- A configuration with three distinct pins, as CONFIGURE leaves it (R20). -/
def DisplayConfig.Distinct (cfg : DisplayConfig) : Prop :=
  cfg.latch ≠ cfg.clock ∧ cfg.latch ≠ cfg.data ∧ cfg.clock ≠ cfg.data

/-- One bit with the clock at rest: one shift, and the clock rests again (R44, R87). -/
theorem bitWrites_wire (cfg : DisplayConfig) (h : cfg.Distinct) (lv : Levels) (hc : lv.sclk = false) (c : Chain)
    (b : Bool) :
    (bitWrites cfg.data cfg.clock b).foldl (wireStep cfg) (lv, c) =
      ({ lv with sclk := false, sdata := b }, c.shiftIn b) := by
  obtain ⟨hlc, hld, hcd⟩ := h
  cases lv with
  | mk la cl da =>
    simp only at hc
    subst hc
    simp [bitWrites, wireStep, driveLine, Chain.follow, hlc.symm, hld.symm, hcd, hcd.symm]

/-- The same with the clock high before: the first rise is no edge, the bit is lost, and the clock rests (R87). -/
theorem bitWrites_wire_high (cfg : DisplayConfig) (h : cfg.Distinct) (lv : Levels) (hc : lv.sclk = true) (c : Chain)
    (b : Bool) :
    (bitWrites cfg.data cfg.clock b).foldl (wireStep cfg) (lv, c) = ({ lv with sclk := false, sdata := b }, c) := by
  obtain ⟨hlc, hld, hcd⟩ := h
  cases lv with
  | mk la cl da =>
    simp only at hc
    subst hc
    simp [bitWrites, wireStep, driveLine, Chain.follow, hlc.symm, hld.symm, hcd, hcd.symm]

/-- Bits shifted in one after the other. -/
def Chain.shiftBits (c : Chain) (bs : List Bool) : Chain := bs.foldl Chain.shiftIn c

theorem bits_wire (cfg : DisplayConfig) (h : cfg.Distinct) (bs : List Bool) (lv : Levels) (hc : lv.sclk = false)
    (c : Chain) :
    (bs.flatMap (bitWrites cfg.data cfg.clock)).foldl (wireStep cfg) (lv, c) =
      ({ lv with sclk := false, sdata := bs.getLast?.getD lv.sdata }, c.shiftBits bs) := by
  induction bs generalizing lv c with
  | nil => cases lv; simp_all [Chain.shiftBits]
  | cons b bs ih =>
    rw [List.flatMap_cons, List.foldl_append, bitWrites_wire cfg h lv hc, ih _ rfl]
    cases bs with
    | nil => simp [Chain.shiftBits]
    | cons b' bs =>
      rw [List.getLast?_cons_cons, List.getLast?_eq_some_getLast (List.cons_ne_nil b' bs)]
      simp [Chain.shiftBits]

/-- A SHIFT of the block's own pins with the clock at rest: eight shifts, bit 0 first, and the data line at bit 7. -/
theorem State.shiftOut_own (s : State) (cfg : DisplayConfig) (hs : s.cfg = cfg) (h : cfg.Distinct) (lv : Levels)
    (hl : s.lines = some lv) (hc : lv.sclk = false) (v : Byte) :
    s.shiftOut cfg.data cfg.clock v =
      { s with lines := some { lv with sclk := false, sdata := v.getLsbD 7 },
               chain := s.chain.shiftBits (lsbFirst v),
               out := s.out ++ [.shift cfg.data cfg.clock v] } := by
  subst hs
  have hb := bits_wire s.cfg h (lsbFirst v) lv hc s.chain
  rw [State.shiftOut, State.emit_wire s _ lv hl]
  simp only [Event.pinWrites, hb]
  simp [lsbFirst]

/-- The latch pulled low with the clock at rest (R83): no edge the chain answers to. -/
theorem State.latchLow (s : State) (h : s.cfg.Distinct) (lv : Levels) (hl : s.lines = some lv) :
    s.emit (.write s.cfg.latch false) =
      { s with lines := some { lv with latch := false }, out := s.out ++ [.write s.cfg.latch false] } := by
  obtain ⟨hlc, hld, -⟩ := h
  rw [State.emit_wire s _ lv hl]
  cases hk : lv.sclk <;> simp [Event.pinWrites, wireStep, driveLine, Chain.follow, hlc, hld, hk]

/-- The latch pulled high after it was low (R89): the outputs take the stages. -/
theorem State.latchHigh (s : State) (cfg : DisplayConfig) (hs : s.cfg = cfg) (h : cfg.Distinct) (lv : Levels)
    (hl : s.lines = some lv) (hla : lv.latch = false) (hc : lv.sclk = false) :
    s.emit (.write cfg.latch true) =
      { s with lines := some { lv with latch := true }, chain := ⟨s.chain.sr, s.chain.sr⟩,
               out := s.out ++ [.write cfg.latch true] } := by
  subst hs
  obtain ⟨hlc, hld, -⟩ := h
  rw [State.emit_wire s _ lv hl]
  simp [Event.pinWrites, wireStep, driveLine, Chain.follow, hlc, hld, hla, hc]

/-- One frame with the clock at rest: 16 shifts, the outputs take the stages, the lines at LATCH = 1, SCLK = 0,
SDATA = SG[7] (R26, R46). -/
theorem State.sendFrame_wire (s : State) (h : s.cfg.Distinct) (lv : Levels) (hl : s.lines = some lv)
    (hc : lv.sclk = false) (x : Byte) (p : Position) :
    s.sendFrame x p =
      { s with lines := some ⟨true, false, (segmentByte s.cfg.mask x).getLsbD 7⟩,
               chain :=
                 ⟨(s.chain.shiftBits (lsbFirst (digitSelect s.cfg.mask p) ++ lsbFirst (segmentByte s.cfg.mask x))).sr,
                  (s.chain.shiftBits (lsbFirst (digitSelect s.cfg.mask p) ++ lsbFirst (segmentByte s.cfg.mask x))).sr⟩,
               out := s.out ++ frameEvents s.cfg (digitSelect s.cfg.mask p) (segmentByte s.cfg.mask x) } := by
  simp only [State.sendFrame]
  rw [State.latchLow s h lv hl]
  have h2 := State.shiftOut_own
    { s with lines := some { lv with latch := false }, out := s.out ++ [.write s.cfg.latch false] } s.cfg rfl h
    { lv with latch := false } rfl hc (digitSelect s.cfg.mask p)
  rw [h2]
  have h3 := State.shiftOut_own
    { s with lines := some ⟨false, false, (digitSelect s.cfg.mask p).getLsbD 7⟩,
             chain := s.chain.shiftBits (lsbFirst (digitSelect s.cfg.mask p)),
             out := s.out ++ [.write s.cfg.latch false] ++
               [.shift s.cfg.data s.cfg.clock (digitSelect s.cfg.mask p)] } s.cfg rfl h
    ⟨false, false, (digitSelect s.cfg.mask p).getLsbD 7⟩ rfl rfl (segmentByte s.cfg.mask x)
  rw [h3]
  rw [State.latchHigh _ s.cfg (by rfl) h ⟨false, false, (segmentByte s.cfg.mask x).getLsbD 7⟩ rfl rfl rfl]
  simp [frameEvents, Chain.shiftBits]

@[simp] theorem Chain.shiftIn_getLsbD (c : Chain) (b : Bool) (k : Nat) (hk : k < 16) :
    (c.shiftIn b).sr.getLsbD k = if k = 0 then b else c.sr.getLsbD (k - 1) := by
  rcases k with _ | k
  · simp [Chain.shiftIn]
  · simp only [Chain.shiftIn, BitVec.getLsbD_or, BitVec.getLsbD_shiftLeft, BitVec.getLsbD_setWidth]
    simp [hk]

/-- After 16 bits the first bit sent stands furthest (R44): stage k holds the bit sent k places before the last. -/
theorem Chain.shiftBits_getLsbD (bs : List Bool) (c : Chain) (k : Nat) (hk : k < bs.length) (hk' : k < 16) :
    (c.shiftBits bs).sr.getLsbD k = bs[bs.length - 1 - k] := by
  induction bs using List.reverseRecOn generalizing k with
  | nil => simp at hk
  | append_singleton bs b ih =>
    simp only [Chain.shiftBits, List.foldl_append, List.foldl_cons, List.foldl_nil]
    rw [Chain.shiftIn_getLsbD _ _ _ hk']
    rcases k with _ | k
    · simp
    · have hk2 : k < bs.length := by simpa using hk
      have := ih k hk2 (by omega)
      simp only [Chain.shiftBits] at this
      simp only [Nat.add_one_ne_zero, if_false, Nat.add_sub_cancel, this]
      rw [List.getElem_append_left]
      · congr 1
        simp
        omega
      · simp
        omega

/-- What stood in the chain before moves up by the number of bits shifted in (R44). -/
theorem Chain.shiftBits_getLsbD_old (bs : List Bool) (c : Chain) (k : Nat) (hk : bs.length ≤ k) (hk' : k < 16) :
    (c.shiftBits bs).sr.getLsbD k = c.sr.getLsbD (k - bs.length) := by
  induction bs using List.reverseRecOn generalizing k with
  | nil => rfl
  | append_singleton bs b ih =>
    simp only [List.length_append, List.length_singleton] at hk ⊢
    simp only [Chain.shiftBits, List.foldl_append, List.foldl_cons, List.foldl_nil]
    rw [Chain.shiftIn_getLsbD _ _ _ hk', if_neg (by omega)]
    have := ih (k - 1) (by omega) (by omega)
    simp only [Chain.shiftBits] at this
    rw [this]
    congr 1
    omega

end Sys2Proof.Machine
end

