-- ==== Sys2Proof/Laws/Exec.lean ====
section
/-! SUPPORT. What each operation can do, once: when it answers a next state, which one it is, and what it needs. -/

namespace Sys2Proof.Machine

open Sys2Proof

@[simp] theorem State.isRunning_iff (s : State) : s.isRunning = true ↔ s.mode = .running := by
  simp [State.isRunning]

theorem Mode.ne_running (m : Mode) : m ≠ .running ↔ m = .unconfigured := by
  cases m <;> simp

theorem State.whenRunning_running (s : State) (h : s.mode = .running) (r : Refusal)
    (go : Host.Outcome State Fault Refusal) : s.whenRunning r go = go := by
  simp [State.whenRunning, h]

theorem State.whenRunning_unconfigured (s : State) (h : s.mode = .unconfigured) (r : Refusal)
    (go : Host.Outcome State Fault Refusal) : s.whenRunning r go = .refused r := by
  simp [State.whenRunning, State.isRunning, h]

/-- A guarded operation that answers a next state ran, and the block was running. -/
theorem State.whenRunning_next {s t : State} {r : Refusal} {go : Host.Outcome State Fault Refusal}
    (h : s.whenRunning r go = .next t) : s.mode = .running ∧ go = .next t := by
  unfold State.whenRunning at h
  split at h
  · next hr => exact ⟨by simpa using hr, h⟩
  · cases h

/-- The state CONFIGURE leaves (R74), field by field. -/
def State.configured (s : State) (l c d : PinId) (anode : Bool) : State :=
  { s with
    mode := .running, buf := #v[0, 0, 0, 0], cur := 0, cfg := ⟨polarityMask anode, l, c, d⟩,
    lines := some (Config.pinIdle s.resets), timer := some 4000,
    out := s.out ++ [.modeOut l, .modeOut c, .modeOut d, .timerInit, .timerAttach 4000] }

theorem State.configured_eq (s : State) (l c d : PinId) (anode : Bool) :
    ((s.pinsToOutput l c d).setConfig l c d anode).clearForBoot.attachTimer = s.configured l c d anode := by
  simp [State.pinsToOutput, State.setConfig, State.clearForBoot, State.attachTimer, State.configured,
    Config.refreshPeriodUs]

theorem execConfigure_eq (l c d : PinOperand) (anode : Bool) (s : State) (hm : s.mode = .unconfigured)
    (hp : pinValue l ≠ pinValue c ∧ pinValue l ≠ pinValue d ∧ pinValue c ≠ pinValue d) :
    execConfigure l c d anode s = .next (s.configured (pinValue l) (pinValue c) (pinValue d) anode) := by
  rw [← State.configured_eq]
  simp [execConfigure, State.isRunning, hm, (pinsDistinct_iff l c d).mpr hp]

theorem execConfigure_next {l c d : PinOperand} {anode : Bool} {s t : State}
    (h : execConfigure l c d anode s = .next t) :
    s.mode = .unconfigured ∧ (pinValue l ≠ pinValue c ∧ pinValue l ≠ pinValue d ∧ pinValue c ≠ pinValue d) ∧
      t = s.configured (pinValue l) (pinValue c) (pinValue d) anode := by
  unfold execConfigure at h
  split at h
  · cases h
  · next hr =>
    have hm : s.mode = .unconfigured := (Mode.ne_running _).mp (by simpa using hr)
    split at h
    · next hp =>
      cases h
      exact ⟨hm, (pinsDistinct_iff l c d).mp hp, State.configured_eq s _ _ _ anode⟩
    · cases h

theorem execSetchar_next {p : Nat} {ch : Byte} {s t : State} (h : execSetchar p ch s = .next t) :
    s.mode = .running ∧ ∃ q : Position, positionOperand p = some q ∧ t = s.setSlot q (fontIndex ch) := by
  obtain ⟨hm, h⟩ := State.whenRunning_next h
  split at h
  · cases h
  · next q hq => cases h; exact ⟨hm, q, hq, rfl⟩

theorem execClear_next {s t : State} (h : execClear s = .next t) :
    s.mode = .running ∧ t = s.issue (clearActions Config.clearOrder.order) := by
  obtain ⟨hm, h⟩ := State.whenRunning_next h
  cases h
  exact ⟨hm, rfl⟩

theorem execSetstring_next {text : List Byte} {s t : State} (h : execSetstring text s = .next t) :
    s.mode = .running ∧ ∃ as, setstringActions text = some as ∧ t = s.issue as := by
  obtain ⟨hm, h⟩ := State.whenRunning_next h
  split at h
  · cases h
  · next as has => cases h; exact ⟨hm, as, has, rfl⟩

theorem execScroll_next {text : List Byte} {delay stride : Int} {s t : State}
    (h : execScroll text delay stride s = .next t) :
    s.mode = .running ∧ 1 ≤ stride ∧ 0 ≤ delay ∧ t = s.issue (scrollActions text delay.toNat stride.toNat) := by
  obtain ⟨hm, h⟩ := State.whenRunning_next h
  split at h
  · cases h
  · next hb => cases h; exact ⟨hm, by omega, by omega, rfl⟩

theorem execLookup_next {code : Byte} {s t : State} (h : execLookup code s = .next t) :
    ∃ i x, lookupIndex code = some i ∧ s.fontAt i = some x ∧ t = s.recordLookup x := by
  unfold execLookup at h
  split at h
  · cases h
  · next i hi =>
    split at h
    · cases h
    · next x hx => cases h; exact ⟨i, x, hi, hx, rfl⟩

theorem execRender_next {x : Byte} {p : Nat} {s t : State} (h : execRender x p s = .next t) :
    s.mode = .running ∧ ∃ q : Position, positionOperand p = some q ∧ t = s.sendFrame x q := by
  obtain ⟨hm, h⟩ := State.whenRunning_next h
  split at h
  · cases h
  · next q hq => cases h; exact ⟨hm, q, hq, rfl⟩

theorem execShiftout_next {d c : PinId} {v : Byte} {s t : State} (h : execShiftout d c v s = .next t) :
    s.mode = .running ∧ t = s.shiftOut d c v := by
  obtain ⟨hm, h⟩ := State.whenRunning_next h
  cases h
  exact ⟨hm, rfl⟩

theorem execTick_eq (s : State) (hm : s.mode = .running) (x : Byte) (hx : s.fontAt (s.slot s.cur) = some x) :
    execTick s = .next (s.refresh x) := by
  simp only [execTick, State.interruptEntry_eq, State.interruptReturn_eq]
  rw [State.whenRunning_running s hm, hx]

theorem execTick_next {s t : State} (h : execTick s = .next t) :
    s.mode = .running ∧ ∃ x, s.fontAt (s.slot s.cur) = some x ∧ t = s.refresh x := by
  obtain ⟨hm, h⟩ := State.whenRunning_next h
  simp only [State.interruptEntry_eq, State.interruptReturn_eq] at h
  split at h
  · cases h
  · next x hx => cases h; exact ⟨hm, x, hx, rfl⟩

/-- A TICK of a running block whose slots hold font indices completes (R95, R15). -/
theorem execTick_completes (s : State) (hm : s.mode = .running) (hs : (s.slot s.cur).toNat ≤ 64) :
    execTick s = .next (s.refresh (s.font[(s.slot s.cur).toNat]'(by omega))) :=
  execTick_eq s hm _ (State.fontAt_of_le s _ hs)

end Sys2Proof.Machine
end

