-- ==== Sys2Proof/Laws/Step.lean ====
section
/-! SUPPORT. What one step can do, once. -/

namespace Sys2Proof.Machine

open Sys2Proof

theorem mainWork_act (s : State) (a : Action) (rest : List Action) (h : s.pending = a :: rest) :
    s.mainWork = .act a rest := by
  simp [State.mainWork, h]

theorem mainWork_issue (s : State) (c : Command) (cs : List Command) (i : Instr) (hp : s.pending = [])
    (hc : s.port = c :: cs) (hi : c.operation = .ok i) : s.mainWork = .issue i cs := by
  simp [State.mainWork, hp, hc, hi]

theorem mainWork_bad (s : State) (c : Command) (cs : List Command) (r : Refusal) (hp : s.pending = [])
    (hc : s.port = c :: cs) (hi : c.operation = .error r) : s.mainWork = .bad r := by
  simp [State.mainWork, hp, hc, hi]

theorem mainWork_none (s : State) (hp : s.pending = []) (hc : s.port = []) : s.mainWork = .none := by
  simp [State.mainWork, hp, hc]

theorem mainStep_act (s : State) (a : Action) (rest : List Action) (h : s.pending = a :: rest) :
    mainStep s = .next (State.perform { s with pending := rest } a) := by
  rw [mainStep, mainWork_act s a rest h]

theorem mainStep_issue (s : State) (c : Command) (cs : List Command) (i : Instr) (hp : s.pending = [])
    (hc : s.port = c :: cs) (hi : c.operation = .ok i) : mainStep s = exec i { s with port := cs } := by
  rw [mainStep, mainWork_issue s c cs i hp hc hi]

theorem mainStep_bad (s : State) (c : Command) (cs : List Command) (r : Refusal) (hp : s.pending = [])
    (hc : s.port = c :: cs) (hi : c.operation = .error r) : mainStep s = .refused r := by
  rw [mainStep, mainWork_bad s c cs r hp hc hi]

theorem mainStep_idle (s : State) (hp : s.pending = []) (hc : s.port = []) :
    mainStep s = if s.timerAttached then execTick s else .next s := by
  rw [mainStep, mainWork_none s hp hc]
  rfl

theorem Command.operation_word (w : Word) (i : Instr) (h : decode w = .ok i) :
    (Command.word w).operation = .ok i := by
  simp [Command.operation, h]

/-- What the main context's turn can do: one action of the operation in progress, the issue of the next command, or,
with nothing left, a TICK or nothing. -/
theorem mainStep_cases {s t : State} (h : mainStep s = .next t) :
    (∃ a rest, s.pending = a :: rest ∧ t = State.perform { s with pending := rest } a) ∨
    (∃ c cs i, s.pending = [] ∧ s.port = c :: cs ∧ c.operation = .ok i ∧ exec i { s with port := cs } = .next t) ∨
    (s.pending = [] ∧ s.port = [] ∧ s.timerAttached = true ∧ execTick s = .next t) ∨
    (s.pending = [] ∧ s.port = [] ∧ s.timerAttached = false ∧ t = s) := by
  unfold mainStep at h
  rcases hp : s.pending with _ | ⟨a, rest⟩
  · rcases hc : s.port with _ | ⟨c, cs⟩
    · rw [mainWork_none s hp hc] at h
      simp only at h
      split at h
      · next ht => exact .inr (.inr (.inl ⟨rfl, rfl, ht, h⟩))
      · next ht => exact .inr (.inr (.inr ⟨rfl, rfl, by simpa using ht, by cases h; rfl⟩))
    · rcases hi : c.operation with r | i
      · rw [mainWork_bad s c cs r hp hc hi] at h
        cases h
      · rw [mainWork_issue s c cs i hp hc hi] at h
        exact .inr (.inl ⟨c, cs, i, rfl, rfl, hi, by simpa [hp] using h⟩)
  · rw [mainWork_act s a rest hp] at h
    cases h
    exact .inl ⟨a, rest, rfl, rfl⟩

/-- What the timer's turn can do: a TICK, or nothing while no timer is attached. -/
theorem timerStep_cases {s t : State} (h : timerStep s = .next t) :
    (s.timerAttached = true ∧ execTick s = .next t) ∨ (s.timerAttached = false ∧ t = s) := by
  unfold timerStep at h
  split at h
  · next ht => exact .inl ⟨ht, h⟩
  · next ht => exact .inr ⟨by simpa using ht, by cases h; rfl⟩

theorem step_no_turns (s : State) (h : s.turns = []) : step s = mainStep s := by
  simp [step, h]

theorem step_main (s : State) (ts : List Turn) (h : s.turns = .main :: ts) :
    step s = mainStep { s with turns := ts } := by
  simp [step, h]

theorem step_tick (s : State) (ts : List Turn) (h : s.turns = .tick :: ts) :
    step s = timerStep { s with turns := ts } := by
  simp [step, h]

theorem step_reset (s : State) (ts : List Turn) (h : s.turns = .reset :: ts) :
    step s = .next (State.resetInput { s with turns := ts }) := by
  simp [step, h, resetStep]

/-- The main context's turn with an operation in progress: its next action. -/
theorem step_main_act (s : State) (a : Action) (rest : List Action) (ts : List Turn) (ht : s.turns = .main :: ts)
    (hp : s.pending = a :: rest) : step s = .next (State.perform { s with pending := rest, turns := ts } a) := by
  rw [step_main s ts ht, mainStep_act { s with turns := ts } a rest hp]

/-- What a step can do, with the turns that are left: the main context's turn, the timer's, or a reset. -/
theorem step_cases {s t : State} (h : step s = .next t) :
    (∃ ts, (s.turns = [] ∧ ts = [] ∨ s.turns = .main :: ts) ∧ mainStep { s with turns := ts } = .next t) ∨
    (∃ ts, s.turns = .tick :: ts ∧ timerStep { s with turns := ts } = .next t) ∨
    (∃ ts, s.turns = .reset :: ts ∧ t = State.resetInput { s with turns := ts }) := by
  rcases hts : s.turns with _ | ⟨u, ts⟩
  · have hs : ({ s with turns := [] } : State) = s := by rw [← hts]
    refine .inl ⟨[], .inl ⟨rfl, rfl⟩, ?_⟩
    rw [hs, ← step_no_turns s hts]
    exact h
  · cases u
    · exact .inl ⟨ts, .inr rfl, by rw [← step_main s ts hts]; exact h⟩
    · exact .inr (.inl ⟨ts, rfl, by rw [← step_tick s ts hts]; exact h⟩)
    · rw [step_reset s ts hts] at h
      cases h
      exact .inr (.inr ⟨ts, rfl, rfl⟩)

theorem run_zero (s : State) : run 0 s = .next s := rfl

theorem run_succ_of_next {s t : State} (k : Nat) (h : step s = .next t) : run (k + 1) s = run k t := by
  simp only [run, Host.Core.run, Sys2Proof.core, h]

end Sys2Proof.Machine
end

