-- ==== Sys2Proof/Tests/Slice0.lean ====
section
/-! SUPPORT. Tests of one step on small states, with results from the spec's vectors (95_test_vectors.md), the smoke of
the well-formedness checks, words written out from the spec's encoding, and for every statement with hypotheses a
concrete state and operands that meet them. -/

namespace Sys2Proof.Tests

open Sys2Proof Sys2Proof.Machine

/-- A legal font of the tests: entries 1 and 2 are 0x92, 3 and 4 are 0x38, 16 is 0xFC, all others blank. -/
def font : Vector Byte 65 := ({} : FontTable).cells

/-- A running block with three distinct pins for the vectors' 10, 11 and 12, `BUF = [0x10, 0, 0, 0x40]`, `CUR = 3`. -/
def on (mask : Byte) (pending : List Action := []) (port : List Command := []) (turns : List Turn := [])
    (sclk : Bool := false) : State where
  mode := .running
  buf := #v[0x10, 0x00, 0x00, 0x40]
  cur := 3
  cfg := ⟨mask, .p0, .p1, .p2⟩
  lines := some ⟨true, sclk, false⟩
  font := font
  chain := ⟨0x0001, 0x0000⟩
  timer := some 4000
  out := []
  lookedUp := none
  pending := pending
  port := port
  turns := turns
  resets := 0

/-- A block before CONFIGURE, with arbitrary register values. -/
def off (port : List Command := []) (turns : List Turn := []) : State where
  mode := .unconfigured
  buf := #v[0x07, 0xC8, 0x00, 0xFF]
  cur := 2
  cfg := ⟨0x5A, .p0, .p0, .p0⟩
  lines := none
  font := font
  chain := ⟨0x1234, 0x5678⟩
  timer := none
  out := []
  lookedUp := none
  pending := []
  port := port
  turns := turns
  resets := 0

/-- The next state, if there is one. -/
def next? : Host.Outcome State Fault Refusal → Option State
  | .next s    => some s
  | .fault _   => none
  | .refused _ => none

/-- The refusal, if there is one. -/
def refusal? : Host.Outcome State Fault Refusal → Option Refusal
  | .next _    => none
  | .fault _   => none
  | .refused r => some r

/-! WellFormed: an ill-formed operation for each check. -/

theorem test_wf_refuses :
    (Instr.configure (.pin .p0) (.pin .p0) (.pin .p2) true).wf = false ∧
    (Instr.configure (.pin .p0) (.pin .p1) (.pin .p0) true).wf = false ∧
    (Instr.configure (.pin .p0) (.pin .p1) (.pin .p1) true).wf = false ∧
    (Instr.setchar 4 0x41#8).wf = false ∧
    (Instr.setstring [0x41#8, 0x42#8, 0x43#8]).wf = false ∧
    (Instr.scroll [0x41#8] 200 0).wf = false ∧
    (Instr.scroll [0x41#8] (-1) 1).wf = false ∧
    (Instr.lookup 0x1F#8).wf = false ∧
    (Instr.lookup 0x61#8).wf = false ∧
    (Instr.render 0xFC#8 4).wf = false := by decide

theorem test_wf_accepts :
    (Instr.configure (.pin .p0) (.pin .p1) (.pin .p2)).wf = true ∧ (Instr.setchar 3 0xFF#8).wf = true ∧
    Instr.clear.wf = true ∧ Instr.tick.wf = true ∧
    (Instr.setstring [0x54#8, 0x45#8, 0x53#8, 0x54#8]).wf = true ∧
    (Instr.scroll [0x41#8]).wf = true ∧ (Instr.lookup 0x60#8).wf = true ∧
    (Instr.render 0xFC#8 3).wf = true ∧ (Instr.shiftout .p2 .p1 0x03#8).wf = true := by decide

theorem test_hasWord_refuses :
    (Instr.configure (.pin .p0) .clockPin .dataPin true).hasWord = false ∧ (Instr.setchar 4 0x41#8).hasWord = false ∧
    (Instr.setstring [0x54#8, 0x45#8, 0x53#8, 0x54#8]).hasWord = false ∧ (Instr.lookup 0x30#8).hasWord = false := by
  decide

/-! Decoding: V-DEC, the words bit by bit from the map of R61. -/

/-- `0001 0000 0000 000a` -/
theorem test_decode_configure :
    decode 0b0001000000000000#16 = .ok (.configure .latchPin .clockPin .dataPin false) ∧
    decode 0b0001000000000001#16 = .ok (.configure .latchPin .clockPin .dataPin true) := by decide

/-- `0010 00pp cccc cccc`: 0x2000, 0x2354, 0x23FF of V-DEC -/
theorem test_decode_setchar :
    decode 0b0010000000000000#16 = .ok (.setchar 0 0x00#8) ∧
    decode 0b0010001101010100#16 = .ok (.setchar 3 0x54#8) ∧
    decode 0b0010001111111111#16 = .ok (.setchar 3 0xFF#8) := by decide

/-- `0011 0000 0000 0000` -/
theorem test_decode_clear : decode 0b0011000000000000#16 = .ok .clear := by decide

/-- `1000 0000 0000 0000` -/
theorem test_decode_tick : decode 0b1000000000000000#16 = .ok .tick := by decide

/-- The reserved words of V-DEC. -/
theorem test_decode_reserved :
    ([0x1002, 0x1100, 0x1FFF, 0x2400, 0x2800, 0x2C00, 0x3001, 0x8001, 0x0000, 0x4000, 0x7FFF, 0x9000, 0xFFFF].all
      fun w => decodeTableWord 16 w == none) = true := by decide

/-- P2: the words of SETSTRING "TEST". -/
theorem test_setstring_words :
    setstringWords [0x54, 0x45, 0x53, 0x54] = some [0x2354#16, 0x2245#16, 0x2153#16, 0x2054#16] := by decide

/-! One small test or two for each operation. -/

/-- CF1 -/
theorem test_configure_anode :
    (next? (exec (.configure (.pin .p0) (.pin .p1) (.pin .p2) true) (off))).map
        (fun t => (t.mode, t.buf, t.cur, t.cfg, t.timer, t.out)) =
      some (.running, #v[0, 0, 0, 0], 0, ⟨0xFF#8, .p0, .p1, .p2⟩, some 4000,
        [.modeOut .p0, .modeOut .p1, .modeOut .p2, .timerInit, .timerAttach 4000]) := rfl

/-- CF3 -/
theorem test_configure_refuses :
    refusal? (exec (.configure (.pin .p0) (.pin .p0) (.pin .p2) false) (off)) = some .pinsNotDistinct ∧
    refusal? (exec (.configure (.pin .p0) (.pin .p1) (.pin .p2) false) (on 0xFF#8)) = some .configureTwice := by decide

/-- R103: SETCHAR 2, "A" -/
theorem test_setchar :
    (next? (exec (.setchar 2 0x41#8) (on 0xFF#8))).map (·.buf) = some #v[0x10, 0x00, 0x21, 0x40] := by decide

/-- R107, CF3 -/
theorem test_setchar_refuses :
    refusal? (exec (.setchar 4 0x41#8) (on 0xFF#8)) = some .positionOutOfRange ∧
    refusal? (exec (.setchar 0 0x30#8) (off)) = some .notConfigured := by decide

/-- R108: the four writes of CLEAR, here for the order (3,2,1,0), leave four blank slots. -/
theorem test_clear :
    applyStores (on 0xFF#8).buf (clearActions [3, 2, 1, 0]) = #v[0, 0, 0, 0] ∧
    (next? (exec .clear (on 0xFF#8))).map (·.pending.length) = some Config.clearOrder.order.length :=
  ⟨by decide, congrArg some (by simp [on, clearActions, State.issue])⟩

/-- SS1: SETSTRING "Ab9~" -/
theorem test_setstring :
    (next? (run 5 (on 0xFF#8 [] [.call (.setstring [0x41, 0x62, 0x39, 0x7E])]))).map (·.buf) =
      some #v[0x00, 0x19, 0x22, 0x21] := by decide

/-- SS1: three bytes -/
theorem test_setstring_refuses :
    refusal? (exec (.setstring [0x41, 0x42, 0x43]) (on 0xFF#8)) = some .textTooShort := by decide

/-- R120: SCROLL "HELLO", 0, 1 -/
theorem test_scroll_hello :
    (next? (exec (.scroll [0x48, 0x45, 0x4C, 0x4C, 0x4F] 0 1) (on 0xFF#8))).map (·.pending) =
      some [.store 3 0x28, .store 2 0x25, .store 1 0x2C, .store 0 0x2C, .sleep 0,
        .store 3 0x25, .store 2 0x2C, .store 1 0x2C, .store 0 0x2F, .sleep 0] := by decide

/-- V-SC: steps of the lengths and strides of the table -/
theorem test_scroll_steps :
    [(3, 1), (4, 1), (5, 2), (6, 2), (7, 3), (8, 3), (10, 4), (4, 100), (11, 1), (16, 5)].map
        (fun x : Nat × Nat => (sleepsOf (scrollActions (List.replicate x.1 0x41#8) 200 x.2)).length) =
      [0, 1, 1, 2, 2, 2, 2, 1, 8, 3] := by decide

/-- R67: LOOKUP 0x30 -/
theorem test_lookup :
    (next? (exec (.lookup 0x30#8) (on 0xFF#8))).map (·.lookedUp) = some (some 0xFC#8) ∧
    refusal? (exec (.lookup 0x61#8) (on 0xFF#8)) = some .fontIndexOutOfRange := by decide

/-- R94: RENDER 0xFC, 2, cathode; V-FR: Q = 0xF83F -/
theorem test_render_cathode :
    (next? (exec (.render 0xFC#8 2) (on 0x00#8))).map (fun t => (t.out, t.chain.q)) =
      some ([.write .p0 false, .shift .p2 .p1 0x1F#8, .shift .p2 .p1 0xFC#8,
        .write .p0 true], 0xF83F#16) := by decide

/-- V-PIN: RENDER 0xFC, 0, anode: 50 pin writes, SR = Q = 0x01C0, lines 1, 0, 0 -/
theorem test_render_pins :
    (next? (exec (.render 0xFC#8 0) (on 0xFF#8))).map
        (fun t => ((t.out.flatMap Event.pinWrites).length, t.chain, t.lines)) =
      some (50, ⟨0x01C0#16, 0x01C0#16⟩, some ⟨true, false, false⟩) := by decide

/-- R86: SHIFTOUT data, clock, 0x03 -/
theorem test_shiftout :
    (next? (exec (.shiftout .p2 .p1 0x03#8) (on 0xFF#8))).map (fun t => (t.out, t.chain)) =
      some ([.shift .p2 .p1 0x03#8], ⟨0x01C0#16, 0x0000#16⟩) := by decide

/-- T3 (with another glyph in slot 0): from CUR = 3 the cursor wraps to 0, then position 0 sends (0x80, 0x03). -/
theorem test_tick_wraps :
    (next? (run 2 (on 0xFF#8))).map (fun t => (t.cur, t.lookedUp, t.out.drop 4)) =
      some (1, some 0xFC#8, [.write .p0 false, .shift .p2 .p1 0x80#8, .shift .p2 .p1 0x03#8,
        .write .p0 true]) := by decide

/-- P6: refused runs -/
theorem test_p6 :
    refusal? (step (off [.word 0x2054#16])) = some .notConfigured ∧
    refusal? (step (off [.word 0x8000#16])) = some .timerNotAttached ∧
    refusal? (step (on 0xFF#8 [] [.word 0x1000#16])) = some .configureTwice ∧
    refusal? (step (on 0xFF#8 [] [.word 0x2454#16])) = some .reservedStimulus ∧
    refusal? (step (on 0xFF#8 [] [.call .tick])) = some .notHostCallable := by decide

/-- R47, R152: in cathode mode the frame of position 2 enables positions 0, 1 and 2, in anode mode position 2 alone. -/
theorem test_enabled :
    (next? (exec (.render 0xFC#8 2) (on 0x00#8))).map (fun t => [t.enabled 0, t.enabled 1, t.enabled 2, t.enabled 3]) =
      some [true, true, true, false] ∧
    (next? (exec (.render 0xFC#8 2) (on 0xFF#8))).map (fun t => [t.enabled 0, t.enabled 1, t.enabled 2, t.enabled 3]) =
      some [false, false, true, false] := by decide

/-! Witnesses: for every statement with hypotheses, a concrete state and operands that meet them all. -/

theorem test_fontLegal : FontLegal font := FontTable.legal {}

/-- A running state of the tests meets the invariant, whatever stands at the port. -/
theorem on_inv (mask : Byte) (hm : mask = 0xFF#8 ∨ mask = 0x00#8) (pending : List Action) (port : List Command)
    (turns : List Turn) (sclk : Bool) (hp : ∀ p v, Action.store p v ∈ pending → v.toNat ≤ 64) :
    (on mask pending port turns sclk).Inv where
  slots := fun _ => by
    have h : ∀ p : Position, ((#v[0x10#8, 0x00#8, 0x00#8, 0x40#8] : Vector Byte 4)[p.toNat]).toNat ≤ 64 := by decide
    exact h
  mask := fun _ => hm
  pins := fun _ => by simp [on]
  font := test_fontLegal
  timer := rfl
  driven := rfl
  quiet := fun h => by cases h
  stores := hp

theorem on_inv_idle (mask : Byte) (hm : mask = 0xFF#8 ∨ mask = 0x00#8) (port : List Command) (turns : List Turn) :
    (on mask [] port turns).Inv :=
  on_inv mask hm [] port turns false (fun _ _ h => by cases h)

theorem off_inv (port : List Command) (turns : List Turn) : (off port turns).Inv where
  slots := fun h => by cases h
  mask := fun h => by cases h
  pins := fun h => by cases h
  font := test_fontLegal
  timer := rfl
  driven := rfl
  quiet := fun _ => ⟨rfl, rfl⟩
  stores := fun _ _ h => by cases h

/-- The operation in progress of the witnesses: the last store and the SLEEP of a SCROLL. -/
def work : List Action := [.store 0 0x40#8, .sleep 0]

theorem work_legal (p : Position) (v : Byte) (h : Action.store p v ∈ work) : v.toNat ≤ 64 := by
  simp only [work, List.mem_cons, Action.store.injEq, reduceCtorEq, List.not_mem_nil, or_false] at h
  rw [h.2]
  decide

theorem work_more_legal (p : Position) (v : Byte) (h : Action.store p v ∈ work ++ [Action.sleep 7]) : v.toNat ≤ 64 :=
  work_legal p v (by simpa using h)

theorem test_witness_ResetInputReturnsToUnconfigured :
    (on 0xFF#8 [] [] [.reset, .tick]).turns = .reset :: [.tick] := rfl

theorem test_witness_UnconfiguredBlockDoesNothing :
    (off [] [.tick]).Inv ∧ (off [] [.tick]).mode = .unconfigured ∧ (off [] [.tick]).port = [] ∧
      (off [] [.tick]).turns.head? ≠ some .reset :=
  ⟨off_inv _ _, rfl, rfl, by decide⟩

theorem test_witness_OperationsBeforeConfigureAreRefused : (off).mode = .unconfigured := rfl

/-- The clauses: running; one pin in two roles, three ways; distinct pins. The parameters need only the mode. -/
theorem test_witness_ConfigureBootsTheBlock :
    (on 0xFF#8).mode = .running ∧
    ((off).mode = .unconfigured ∧ (PinId.p0 = .p0 ∨ PinId.p0 = .p2 ∨ PinId.p0 = .p2)) ∧
    ((off).mode = .unconfigured ∧ (PinId.p0 = .p1 ∨ PinId.p0 = .p0 ∨ PinId.p1 = .p0)) ∧
    ((off).mode = .unconfigured ∧ (PinId.p0 = .p1 ∨ PinId.p0 = .p1 ∨ PinId.p1 = .p1)) ∧
    ((off).mode = .unconfigured ∧ PinId.p0 ≠ .p1 ∧ PinId.p0 ≠ .p2 ∧ PinId.p1 ≠ .p2) := by decide

/-- A renaming that is no identity: two pins exchanged. -/
theorem test_witness_OnlyEqualityOfPinsMatters :
    Function.Injective (fun p : PinId => if p = .p0 then .p1 else if p = .p1 then .p0 else p) := by
  intro a b h
  cases a <;> cases b <;> simp at h ⊢
  exact h

theorem test_witness_BootThenFourBlankFrames :
    (off).Inv ∧ (off).mode = .unconfigured ∧ PinId.p0 ≠ .p1 ∧ PinId.p0 ≠ .p2 ∧ PinId.p1 ≠ .p2 ∧
      (off).port = [] ∧ (off).turns = [] :=
  ⟨off_inv _ _, rfl, by decide, by decide, by decide, rfl, rfl⟩

/-- The ends of the three ranges. -/
theorem test_witness_CharacterClassesGiveTheIndex :
    [0x20#8, 0x60#8].all (fun ch : Byte => decide (0x20 ≤ ch.toNat ∧ ch.toNat ≤ 0x60)) ∧
    [0x61#8, 0x7A#8].all (fun ch : Byte => decide (0x61 ≤ ch.toNat ∧ ch.toNat ≤ 0x7A)) ∧
    [0x00#8, 0x1F#8, 0x7B#8, 0xFF#8].all (fun ch : Byte => decide (ch.toNat ≤ 0x1F ∨ 0x7B ≤ ch.toNat)) := by decide

/-- The three clauses, at the last position inside the range and the first outside. -/
theorem test_witness_SetcharWritesOneSlot :
    (off).mode = .unconfigured ∧ ((on 0xFF#8).mode = .running ∧ 3 < 4) ∧ ((on 0xFF#8).mode = .running ∧ 3 < 4) := by
  decide

theorem test_witness_LowercaseStoresTheUppercaseIndex :
    [0x61#8, 0x7A#8].all (fun ch : Byte => decide (0x61 ≤ ch.toNat ∧ ch.toNat ≤ 0x7A)) ∧ (on 0xFF#8).mode = .running ∧
      0 < 4 ∧ 3 < 4 := by decide

theorem test_witness_GroupsCompleteUnderEveryInterleaving :
    let s := on 0x00#8 (work ++ [Action.sleep 7]) [] ([Turn.tick, .main, .tick, .main] ++ [Turn.main])
    s.Inv ∧ s.mode = .running ∧ s.pending = work ++ [Action.sleep 7] ∧ s.turns = [Turn.tick, .main, .tick, .main] ++ [Turn.main] ∧
      [Turn.tick, .main, .tick, .main].count .reset = 0 ∧ mainsIn [.tick, .main, .tick, .main] = work.length :=
  ⟨on_inv 0x00#8 (.inr rfl) (work ++ [Action.sleep 7]) [] ([Turn.tick, .main, .tick, .main] ++ [Turn.main]) false work_more_legal, rfl,
    rfl, rfl, by decide, by decide⟩

theorem test_witness_ClearBlanksTheBuffer :
    (on 0xFF#8).Inv ∧ (on 0xFF#8).mode = .running ∧
      [Turn.main, .main, .tick, .main, .main].count .reset = 0 ∧ mainsIn [.main, .main, .tick, .main, .main] = 4 :=
  ⟨on_inv_idle _ (.inl rfl) _ _, rfl, by decide, by decide⟩

/-- The three clauses, at the lengths 3 and 4. -/
theorem test_witness_SetstringIssuesFourSlotWrites :
    (off).mode = .unconfigured ∧ ((on 0xFF#8).mode = .running ∧ [0x41#8, 0x42#8, 0x43#8].length < 4) ∧
      (on 0xFF#8).mode = .running := by decide

theorem test_witness_SetstringFillsTheBufferBackToFront :
    (on 0xFF#8).Inv ∧ (on 0xFF#8).mode = .running ∧
      (∃ t, exec (.setstring [0x54, 0x45, 0x53, 0x54]) (on 0xFF#8) = .next t) ∧
      [Turn.main, .tick, .main, .main, .main].count .reset = 0 ∧ mainsIn [.main, .tick, .main, .main, .main] = 4 :=
  ⟨on_inv_idle _ (.inl rfl) _ _, rfl, ⟨_, rfl⟩, by decide, by decide⟩

theorem test_witness_SetstringIsItsFourSetcharWords :
    (on 0xFF#8).mode = .running ∧ (on 0xFF#8).pending = [] ∧ (on 0xFF#8).turns = [] := by decide

theorem test_witness_ScrollIssuesOneWindowAndOneSleepPerStep : (on 0xFF#8).mode = .running ∧ 1 ≤ 1 := by decide

theorem test_witness_ScrollLeavesTheLastWindow :
    (on 0xFF#8).Inv ∧ (on 0xFF#8).mode = .running ∧ 1 ≤ 1 ∧ 4 ≤ [0x48#8, 0x45#8, 0x4C#8, 0x4C#8].length ∧
      (∃ t, exec (.scroll [0x48, 0x45, 0x4C, 0x4C] 0 1) (on 0xFF#8) = .next t) ∧
      (List.replicate 5 Turn.main).count .reset = 0 ∧ mainsIn (List.replicate 5 .main) = 5 * scrollSteps 4 1 :=
  ⟨on_inv_idle _ (.inl rfl) _ _, rfl, by decide, by decide, ⟨_, rfl⟩, by decide, by decide⟩

/-- The three clauses at their limits: stride 0, delay -1; stride 1; a text of 4 bytes and stride 5. -/
theorem test_witness_ScrollOperandLimits :
    (on 0xFF#8).mode = .running ∧ ((0 : Int) < 1 ∨ (0 : Int) < 0) ∧ ((1 : Int) < 1 ∨ (-1 : Int) < 0) ∧
      (1 : Int) ≤ 1 ∧ (4 ≤ [0x48#8, 0x45#8, 0x4C#8, 0x4C#8].length ∧ [0x48#8, 0x45#8, 0x4C#8, 0x4C#8].length < 5) := by
  decide

theorem test_witness_TextOperationsTouchOnlyTheBuffer :
    (∃ t, exec (.setchar 3 0x7A#8) (on 0xFF#8) = .next t) ∧ (∃ t, exec .clear (on 0xFF#8) = .next t) ∧
      (∃ t, exec (.setstring [0x54, 0x45, 0x53, 0x54]) (on 0xFF#8) = .next t) ∧
      (∃ t, exec (.scroll [0x54]) (on 0xFF#8) = .next t) :=
  ⟨⟨_, rfl⟩, ⟨_, rfl⟩, ⟨_, rfl⟩, ⟨_, rfl⟩⟩

/-- Both clauses, and both kinds of turn. -/
theorem test_witness_MainContextDoesOneActionAtATime :
    ((on 0xFF#8 work [] [.main]).turns = .main :: [] ∧
      (on 0xFF#8 work [] [.main]).pending = .store 0 0x40#8 :: [.sleep 0]) ∧
    (((on 0xFF#8 [.sleep 0]).turns = [] ∧ ([] : List Turn) = []) ∧
      (on 0xFF#8 [.sleep 0]).pending = .sleep 0 :: []) := by decide

/-- The ends of the range, and a legal font. -/
theorem test_witness_LookupReadsTheFont :
    [0x20#8, 0x60#8].all (fun c : Byte => decide (0x20 ≤ c.toNat ∧ c.toNat ≤ 0x60)) ∧ FontLegal (on 0xFF#8).font :=
  ⟨by decide, test_fontLegal⟩

/-- The first position outside the range and the codes beside it. -/
theorem test_witness_OutOfRangeOperandsAreRefused :
    ((on 0xFF#8).mode = .running ∧ 3 < 4) ∧
      [0x1F#8, 0x61#8].all (fun c : Byte => decide (c.toNat < 0x20 ∨ 0x60 < c.toNat)) := by decide

/-- A step of each agent: the main context, the timer, the reset input. -/
theorem test_witness_FontNeverChanges :
    (∃ t, step (on 0xFF#8 work [] [.main]) = .next t) ∧ (∃ t, step (on 0xFF#8 work [] [.tick]) = .next t) ∧
      (∃ t, step (on 0xFF#8 work [] [.reset]) = .next t) :=
  ⟨⟨_, rfl⟩, ⟨_, rfl⟩, ⟨_, rfl⟩⟩

theorem test_witness_FontIsNotOneToOne : (on 0xFF#8).Inv := on_inv_idle _ (.inl rfl) _ _

theorem test_witness_RenderSendsOneFrame : (on 0x00#8).mode = .running ∧ 3 < 4 ∧ 0 < 4 := by decide

theorem test_witness_FrameReachesTheOutputs :
    (on 0x00#8).mode = .running ∧ (on 0x00#8).cfg.latch ≠ (on 0x00#8).cfg.clock ∧
      (on 0x00#8).cfg.latch ≠ (on 0x00#8).cfg.data ∧ (on 0x00#8).cfg.clock ≠ (on 0x00#8).cfg.data ∧
      (on 0x00#8).lines = some ⟨true, false, false⟩ := by decide

theorem test_witness_ClockHighLosesTheFirstBit :
    let s := on 0xFF#8 [] [] [] true
    s.mode = .running ∧ s.cfg.latch ≠ s.cfg.clock ∧ s.cfg.latch ≠ s.cfg.data ∧ s.cfg.clock ≠ s.cfg.data ∧
      s.lines = some ⟨true, true, false⟩ := by decide

/-- Both polarities. -/
theorem test_witness_DisplayShowsThePattern :
    ((on 0xFF#8).Inv ∧ (on 0xFF#8).mode = .running ∧ (on 0xFF#8).lines = some ⟨true, false, false⟩) ∧
      ((on 0x00#8).Inv ∧ (on 0x00#8).mode = .running ∧ (on 0x00#8).lines = some ⟨true, false, false⟩) :=
  ⟨⟨on_inv_idle _ (.inl rfl) _ _, rfl, rfl⟩, ⟨on_inv_idle _ (.inr rfl) _ _, rfl, rfl⟩⟩

theorem test_witness_ShiftingLeavesTheOutputs :
    (on 0xFF#8).mode = .running ∧ (on 0xFF#8).cfg.latch ≠ (on 0xFF#8).cfg.clock ∧
      (on 0xFF#8).cfg.latch ≠ (on 0xFF#8).cfg.data := by decide

theorem test_witness_ShiftoutRecordsItsByte : (on 0xFF#8).mode = .running := rfl

theorem test_witness_ShiftClocksEightBitsLsbFirst :
    (on 0xFF#8).mode = .running ∧ (on 0xFF#8).cfg.latch ≠ (on 0xFF#8).cfg.clock ∧
      (on 0xFF#8).cfg.latch ≠ (on 0xFF#8).cfg.data ∧ (on 0xFF#8).cfg.clock ≠ (on 0xFF#8).cfg.data ∧
      (on 0xFF#8).lines = some ⟨true, false, false⟩ := by decide

/-- The two clauses; the slot at the cursor holds the last index of the font. -/
theorem test_witness_TickRendersTheSlotAtTheCursor :
    (off).mode = .unconfigured ∧ (on 0xFF#8).mode = .running ∧ ((on 0xFF#8).slot (on 0xFF#8).cur).toNat = 64 := by
  decide

theorem test_witness_TickIsLookupThenRenderThenAdvance : (on 0x00#8).Inv ∧ (on 0x00#8).mode = .running :=
  ⟨on_inv_idle _ (.inr rfl) _ _, rfl⟩

theorem test_witness_TicksVisitThePositionsInTurn :
    (on 0xFF#8 [] [] [.tick, .tick, .main]).Inv ∧ (on 0xFF#8 [] [] [.tick, .tick, .main]).mode = .running ∧
      (on 0xFF#8 [] [] [.tick, .tick, .main]).turns = List.replicate 2 Turn.tick ++ [Turn.main] :=
  ⟨on_inv_idle _ (.inl rfl) _ _, rfl, rfl⟩

/-- `before` TICKs, the main context's turn, `after` TICKs. -/
def visit (before after : Nat) : List Turn := List.replicate before .tick ++ .main :: (List.replicate after .tick ++ [])

/-- P4: the word 0x2220 (SETCHAR 2, space) after the third TICK and before the seventh: the two ends of the range. -/
theorem test_witness_SlotWrittenBetweenVisitsShowsAtTheNext :
    (on 0xFF#8 [] [.word 0x2220#16] (visit 3 5)).Inv ∧ (on 0xFF#8 [] [.word 0x2220#16] (visit 6 2)).Inv ∧
      (on 0xFF#8 [] [.word 0x2220#16] (visit 3 5)).mode = .running ∧
      (on 0xFF#8 [] [.word 0x2220#16] (visit 6 2)).pending = [] ∧
      decode 0x2220#16 = .ok (.setchar (2#2 : Position).toNat 0x20#8) ∧
      (on 0xFF#8 [] [.word 0x2220#16] (visit 3 5)).port = .word 0x2220#16 :: [] ∧
      (on 0xFF#8 [] [.word 0x2220#16] (visit 3 5)).turns = visit 3 5 ∧
      (on 0xFF#8 [] [.word 0x2220#16] (visit 6 2)).turns = visit 6 2 :=
  ⟨on_inv_idle 0xFF#8 (.inl rfl) _ _, on_inv_idle 0xFF#8 (.inl rfl) _ _, rfl, rfl, by decide, rfl, rfl, rfl⟩

theorem test_witness_EveryPositionRefreshedWithinFourTicks :
    (on 0x00#8).Inv ∧ (on 0x00#8).mode = .running ∧ (on 0x00#8).pending = [] ∧ (on 0x00#8).port = [] ∧
      (on 0x00#8).turns = [] :=
  ⟨on_inv_idle _ (.inr rfl) _ _, rfl, rfl, rfl, rfl⟩

theorem test_witness_TimerPreemptsTheMainContext :
    (on 0xFF#8 work [] [.tick, .main]).Inv ∧ (on 0xFF#8 work [] [.tick, .main]).mode = .running ∧
      (on 0xFF#8 work [] [.tick, .main]).turns = .tick :: [.main] :=
  ⟨on_inv _ (.inl rfl) _ _ _ _ work_legal, rfl, rfl⟩

/-- A step of each agent from a state of the invariant. -/
theorem test_witness_StepKeepsTheInvariant :
    ((on 0xFF#8 work [] [.main]).Inv ∧ ∃ t, step (on 0xFF#8 work [] [.main]) = .next t) ∧
      ((on 0xFF#8 work [] [.tick]).Inv ∧ ∃ t, step (on 0xFF#8 work [] [.tick]) = .next t) ∧
      ((on 0xFF#8 work [] [.reset]).Inv ∧ ∃ t, step (on 0xFF#8 work [] [.reset]) = .next t) :=
  ⟨⟨on_inv _ (.inl rfl) _ _ _ _ work_legal, _, rfl⟩, ⟨on_inv _ (.inl rfl) _ _ _ _ work_legal, _, rfl⟩,
    ⟨on_inv _ (.inl rfl) _ _ _ _ work_legal, _, rfl⟩⟩

theorem test_witness_ConfigurationIsFixedUntilReset :
    (on 0xFF#8 work [] [.tick]).mode = .running ∧ (on 0xFF#8 work [] [.tick]).turns.head? ≠ some .reset ∧
      ∃ t, step (on 0xFF#8 work [] [.tick]) = .next t :=
  ⟨rfl, by decide, _, rfl⟩

/-- A step of each kind: an action of the main context, the timer's TICK, a TICK word. -/
theorem test_witness_OnlyTicksMoveTheCursor :
    ((on 0xFF#8 work [] [.main]).mode = .running ∧ (on 0xFF#8 work [] [.main]).turns.head? ≠ some .reset ∧
      ∃ t, step (on 0xFF#8 work [] [.main]) = .next t) ∧
    ((on 0xFF#8 work [] [.tick]).mode = .running ∧ (on 0xFF#8 work [] [.tick]).turns.head? ≠ some .reset ∧
      ∃ t, step (on 0xFF#8 work [] [.tick]) = .next t) ∧
    ((on 0xFF#8 [] [.word 0x8000#16]).mode = .running ∧ (on 0xFF#8 [] [.word 0x8000#16]).turns.head? ≠ some .reset ∧
      ∃ t, step (on 0xFF#8 [] [.word 0x8000#16]) = .next t) :=
  ⟨⟨rfl, by decide, _, rfl⟩, ⟨rfl, by decide, _, rfl⟩, ⟨rfl, by decide, _, rfl⟩⟩

theorem test_witness_TraceOnlyGrows :
    (on 0xFF#8 work [] [.tick]).turns.head? ≠ some .reset ∧ ∃ t, step (on 0xFF#8 work [] [.tick]) = .next t :=
  ⟨by decide, _, rfl⟩

theorem test_witness_BlockWithoutCommandsNeverStops :
    (on 0xFF#8 work [] [.tick]).Inv ∧ (on 0xFF#8 work [] [.tick]).port = [] :=
  ⟨on_inv _ (.inl rfl) _ _ _ _ work_legal, rfl⟩

theorem test_witness_NoTextStopsTheBlock : (on 0xFF#8).mode = .running ∧ 4 ≤ [0#8, 0xFF#8, 0x7F#8, 0x80#8].length := by
  decide

/-- Both kinds of turn, a defined word and a reserved one. -/
theorem test_witness_StepRunsTheDecodedWord :
    let s := on 0xFF#8 [] [.word 0x3000#16] [.main, .tick]
    let s' := on 0xFF#8 [] [.word 0x3001#16]
    (s.pending = [] ∧ s.port = .word 0x3000#16 :: [] ∧ s.turns = .main :: [.tick] ∧ decode 0x3000#16 = .ok .clear) ∧
      (s'.pending = [] ∧ s'.port = .word 0x3001#16 :: [] ∧ (s'.turns = [] ∧ ([] : List Turn) = []) ∧
        decode 0x3001#16 = .error (.reservedStimulus 0x3001#16)) := by decide

theorem test_witness_StepRunsTheHostsCall :
    let s := on 0xFF#8 [] [.call (.scroll [0x41#8])]
    let s' := on 0xFF#8 [] [.call .tick] [.main]
    (s.pending = [] ∧ s.port = .call (.scroll [0x41#8]) :: [] ∧ (s.turns = [] ∧ ([] : List Turn) = [])) ∧
      (s'.pending = [] ∧ s'.port = .call .tick :: [] ∧ s'.turns = .main :: []) := by decide

theorem test_witness_PlacedWordIsRunNext : decodeTableWord 16 0x1001 = some (.configure .latchPin .clockPin .dataPin true) := by
  decide

theorem test_witness_ReservedWordsAreRefused :
    let s := on 0xFF#8 [] [.word 0x2400#16]
    s.pending = [] ∧ s.turns = [] ∧ s.port = .word 0x2400#16 :: [] ∧
      ¬ ((0x2400#16).toNat = 0x1000 ∨ (0x2400#16).toNat = 0x1001 ∨
        0x2000 ≤ (0x2400#16).toNat ∧ (0x2400#16).toNat ≤ 0x23FF ∨ (0x2400#16).toNat = 0x3000 ∨
        (0x2400#16).toNat = 0x8000) := by decide

theorem test_witness_OpcodeRowsNeverOverlap :
    (⟨.setchar, 0x2000#16, 0xFC00#16⟩ : OpcodeRow) ∈ opcodeMap ∧
      (⟨.setchar, 0x2000#16, 0xFC00#16⟩ : OpcodeRow).selects 0x23FF#16 := by decide

theorem test_witness_DecodeInvertsEncode :
    (Instr.configure .latchPin .clockPin .dataPin true).hasWord ∧ (Instr.setchar 3 0xFF#8).hasWord ∧
      Instr.clear.hasWord ∧ Instr.tick.hasWord := by decide

theorem test_witness_EncodeInvertsDecode : decode 0x23FF#16 = .ok (.setchar 3 0xFF#8) := by decide

theorem test_witness_EveryWordDecodesToItsOperation : encode (.setchar 3 0xFF#8) = some 0x23FF#16 := by decide

end Sys2Proof.Tests
end

section
/-! SUPPORT. Renaming the pins one-to-one commutes with every operation (R7, R20, R79): the only question an operation
asks of two pins is whether they are equal. -/

namespace Sys2Proof.Machine

open Sys2Proof

/-! The renamed state, field by field. -/

@[simp] theorem State.renamePins_cur (f : PinId → PinId) (s : State) : (s.renamePins f).cur = s.cur := rfl
@[simp] theorem State.renamePins_cfg (f : PinId → PinId) (s : State) :
    (s.renamePins f).cfg = ⟨s.cfg.mask, f s.cfg.latch, f s.cfg.clock, f s.cfg.data⟩ := rfl
@[simp] theorem State.renamePins_isRunning (f : PinId → PinId) (s : State) :
    (s.renamePins f).isRunning = s.isRunning := rfl
@[simp] theorem State.renamePins_slot (f : PinId → PinId) (s : State) (p : Position) :
    (s.renamePins f).slot p = s.slot p := rfl
@[simp] theorem State.renamePins_fontAt (f : PinId → PinId) (s : State) (i : Byte) :
    (s.renamePins f).fontAt i = s.fontAt i := rfl

/-! The updates that name no pin. -/

@[simp] theorem State.recordLookup_renamePins (f : PinId → PinId) (s : State) (x : Byte) :
    (s.renamePins f).recordLookup x = (s.recordLookup x).renamePins f := rfl
@[simp] theorem State.advanceCursor_renamePins (f : PinId → PinId) (s : State) :
    (s.renamePins f).advanceCursor = s.advanceCursor.renamePins f := rfl

/-! Operands, the guard, and the state CONFIGURE leaves. -/

@[simp] theorem pinValue_renameOperand (f : PinId → PinId) (o : PinOperand) :
    pinValue (renameOperand f o) = f (pinValue o) := rfl

/-- The guard asks only for the mode, so a renaming passes through it. -/
theorem State.whenRunning_renamePins (f : PinId → PinId) (s : State) (r : Refusal)
    {go go' : Host.Outcome State Fault Refusal} (h : go' = mapNext (State.renamePins f) go) :
    (s.renamePins f).whenRunning r go' = mapNext (State.renamePins f) (s.whenRunning r go) := by
  subst h
  cases hr : s.isRunning <;> simp [State.whenRunning, hr, mapNext]

theorem State.configured_renamePins (f : PinId → PinId) (s : State) (l c d : PinId) (anode : Bool) :
    (s.renamePins f).configured (f l) (f c) (f d) anode = (s.configured l c d anode).renamePins f := by
  simp [State.configured, State.renamePins, renameEvent]

theorem bitWrites_map (f : PinId → PinId) (d c : PinId) (bit : Bool) :
    (bitWrites d c bit).map (Prod.map f id) = bitWrites (f d) (f c) bit := rfl

/-- The pin writes of a renamed event are the event's own, renamed. -/
theorem Event.pinWrites_renameEvent (f : PinId → PinId) (e : Event) :
    (renameEvent f e).pinWrites = e.pinWrites.map (Prod.map f id) := by
  cases e with
  | shift d c v => simp [renameEvent, Event.pinWrites, List.map_flatMap, bitWrites_map]
  | modeOut _ | write _ _ | timerInit | timerAttach _ | sleep _ => rfl

/-! The operations that compare pins: here one-to-one is needed. -/

section Injective

variable {f : PinId → PinId} (hf : Function.Injective f)
include hf

theorem pinsDistinct_renameOperand (l c d : PinOperand) :
    pinsDistinct (renameOperand f l) (renameOperand f c) (renameOperand f d) = pinsDistinct l c d := by
  rw [Bool.eq_iff_iff, pinsDistinct_iff, pinsDistinct_iff]
  simp only [pinValue_renameOperand, hf.ne_iff]

theorem driveLine_rename (lv : Levels) (cfg : DisplayConfig) (pin : PinId) (level : Bool) :
    driveLine lv ⟨cfg.mask, f cfg.latch, f cfg.clock, f cfg.data⟩ (f pin) level = driveLine lv cfg pin level := by
  simp [driveLine, hf.eq_iff]

theorem State.writePin_renamePins (s : State) (pin : PinId) (level : Bool) :
    (s.renamePins f).writePin (f pin) level = (s.writePin pin level).renamePins f := by
  cases hl : s.lines with
  | none => simp [State.writePin, State.renamePins, hl]
  | some lv => simp [State.writePin, State.renamePins, hl, driveLine_rename hf]

theorem State.writePins_renamePins (ws : List (PinId × Bool)) (s : State) :
    (s.renamePins f).writePins (ws.map (Prod.map f id)) = (s.writePins ws).renamePins f := by
  induction ws generalizing s with
  | nil => rfl
  | cons w ws ih =>
    have hw := State.writePin_renamePins hf s w.1 w.2
    have ih := ih (s.writePin w.1 w.2)
    simp only [State.writePins, List.map_cons, List.foldl_cons, Prod.map_fst, Prod.map_snd, id_eq] at ih ⊢
    rw [hw, ih]

theorem State.emit_renamePins (s : State) (e : Event) :
    (s.renamePins f).emit (renameEvent f e) = (s.emit e).renamePins f := by
  have h := State.writePins_renamePins hf e.pinWrites s
  simp only [State.emit, Event.pinWrites_renameEvent]
  simp only [State.writePins] at h
  rw [h]
  simp [State.renamePins]

theorem State.shiftOut_renamePins (s : State) (d c : PinId) (v : Byte) :
    (s.renamePins f).shiftOut (f d) (f c) v = (s.shiftOut d c v).renamePins f :=
  State.emit_renamePins hf s (.shift d c v)

theorem State.writeEvent_renamePins (s : State) (pin : PinId) (level : Bool) :
    (s.renamePins f).emit (.write (f pin) level) = (s.emit (.write pin level)).renamePins f :=
  State.emit_renamePins hf s (.write pin level)

theorem State.sendFrame_renamePins (s : State) (x : Byte) (p : Position) :
    (s.renamePins f).sendFrame x p = (s.sendFrame x p).renamePins f := by
  simp only [State.sendFrame, State.renamePins_cfg, State.writeEvent_renamePins hf, State.shiftOut_renamePins hf]

theorem State.refresh_renamePins (s : State) (x : Byte) :
    (s.renamePins f).refresh x = (s.refresh x).renamePins f := by
  simp only [State.refresh, State.recordLookup_renamePins, State.renamePins_cur, State.sendFrame_renamePins hf,
    State.advanceCursor_renamePins]

theorem execConfigure_rename (l c d : PinOperand) (anode : Bool) (s : State) :
    execConfigure (renameOperand f l) (renameOperand f c) (renameOperand f d) anode (s.renamePins f) =
      mapNext (State.renamePins f) (execConfigure l c d anode s) := by
  simp only [execConfigure, State.configured_eq, State.renamePins_isRunning, pinsDistinct_renameOperand hf,
    pinValue_renameOperand, State.configured_renamePins]
  split
  · rfl
  · split <;> rfl

theorem execTick_rename (s : State) :
    execTick (s.renamePins f) = mapNext (State.renamePins f) (execTick s) := by
  refine State.whenRunning_renamePins f s _ ?_
  simp only [State.interruptEntry_eq, State.interruptReturn_eq, State.renamePins_slot, State.renamePins_cur,
    State.renamePins_fontAt, State.refresh_renamePins hf]
  cases s.fontAt (s.slot s.cur) <;> rfl

theorem execRender_rename (x : Byte) (p : Nat) (s : State) :
    execRender x p (s.renamePins f) = mapNext (State.renamePins f) (execRender x p s) := by
  refine State.whenRunning_renamePins f s _ ?_
  simp only [State.sendFrame_renamePins hf]
  cases positionOperand p <;> rfl

theorem execShiftout_rename (d c : PinId) (v : Byte) (s : State) :
    execShiftout (f d) (f c) v (s.renamePins f) = mapNext (State.renamePins f) (execShiftout d c v s) :=
  State.whenRunning_renamePins f s _ (by rw [State.shiftOut_renamePins hf]; rfl)

end Injective

/-! The operations that name no pin. -/

theorem execSetchar_rename (f : PinId → PinId) (p : Nat) (ch : Byte) (s : State) :
    execSetchar p ch (s.renamePins f) = mapNext (State.renamePins f) (execSetchar p ch s) := by
  refine State.whenRunning_renamePins f s _ ?_
  cases positionOperand p <;> rfl

theorem execClear_rename (f : PinId → PinId) (s : State) :
    execClear (s.renamePins f) = mapNext (State.renamePins f) (execClear s) :=
  State.whenRunning_renamePins f s _ rfl

theorem execSetstring_rename (f : PinId → PinId) (text : List Byte) (s : State) :
    execSetstring text (s.renamePins f) = mapNext (State.renamePins f) (execSetstring text s) := by
  refine State.whenRunning_renamePins f s _ ?_
  cases setstringActions text <;> rfl

theorem execScroll_rename (f : PinId → PinId) (text : List Byte) (delay stride : Int) (s : State) :
    execScroll text delay stride (s.renamePins f) = mapNext (State.renamePins f) (execScroll text delay stride s) := by
  refine State.whenRunning_renamePins f s _ ?_
  split <;> rfl

theorem execLookup_rename (f : PinId → PinId) (code : Byte) (s : State) :
    execLookup code (s.renamePins f) = mapNext (State.renamePins f) (execLookup code s) := by
  simp only [execLookup, State.renamePins_fontAt, State.recordLookup_renamePins]
  cases lookupIndex code with
  | none => rfl
  | some i => cases h : s.fontAt i <;> simp [h, mapNext]

/-- Settles O9: each operation commutes with a one-to-one renaming of the pins. -/
theorem onlyEqualityOfPinsMatters : Obligations.OnlyEqualityOfPinsMatters := by
  intro f hf i s
  cases i with
  | configure l c d anode => exact execConfigure_rename hf l c d anode s
  | setchar p ch => exact execSetchar_rename f p ch s
  | clear => exact execClear_rename f s
  | tick => exact execTick_rename hf s
  | setstring text => exact execSetstring_rename f text s
  | scroll text delay stride => exact execScroll_rename f text delay stride s
  | lookup code => exact execLookup_rename f code s
  | render x p => exact execRender_rename hf x p s
  | shiftout d c v => exact execShiftout_rename hf d c v s

end Sys2Proof.Machine
end

section
/-! SUPPORT. The trace only grows (R11): every operation and every action of the main context appends to it. -/

namespace Sys2Proof.Machine

open Sys2Proof

/-- Every operation keeps the trace it found and may append to it. -/
theorem exec_out_prefix {i : Instr} {s t : State} (h : exec i s = .next t) : s.out <+: t.out := by
  cases i with
  | configure l c d anode =>
    obtain ⟨-, -, rfl⟩ := execConfigure_next h
    exact List.prefix_append _ _
  | setchar p ch =>
    obtain ⟨-, q, -, rfl⟩ := execSetchar_next h
    exact List.prefix_rfl
  | clear =>
    obtain ⟨-, rfl⟩ := execClear_next h
    exact List.prefix_rfl
  | tick =>
    obtain ⟨-, x, -, rfl⟩ := execTick_next h
    simp
  | setstring text =>
    obtain ⟨-, as, -, rfl⟩ := execSetstring_next h
    exact List.prefix_rfl
  | scroll text delay stride =>
    obtain ⟨-, -, -, rfl⟩ := execScroll_next h
    exact List.prefix_rfl
  | lookup code =>
    obtain ⟨j, x, -, -, rfl⟩ := execLookup_next h
    exact List.prefix_rfl
  | render x p =>
    obtain ⟨-, q, -, rfl⟩ := execRender_next h
    simp
  | shiftout d c v =>
    obtain ⟨-, rfl⟩ := execShiftout_next h
    simp

theorem State.perform_out_prefix (s : State) (a : Action) : s.out <+: (s.perform a).out := by
  cases a with
  | store p v => exact List.prefix_rfl
  | sleep ms => exact List.prefix_append _ _

theorem mainStep_out_prefix {s t : State} (h : mainStep s = .next t) : s.out <+: t.out := by
  rcases mainStep_cases h with ⟨a, rest, -, rfl⟩ | ⟨c, cs, i, -, -, -, hi⟩ | ⟨-, -, -, ht⟩ | ⟨-, -, -, rfl⟩
  · exact State.perform_out_prefix { s with pending := rest } a
  · exact exec_out_prefix (s := { s with port := cs }) hi
  · exact exec_out_prefix (i := .tick) ht
  · exact List.prefix_rfl

theorem timerStep_out_prefix {s t : State} (h : timerStep s = .next t) : s.out <+: t.out := by
  rcases timerStep_cases h with ⟨-, ht⟩ | ⟨-, rfl⟩
  · exact exec_out_prefix (i := .tick) ht
  · exact List.prefix_rfl

/-- Settles O45, by the agent whose turn it is; a reset is excluded by the hypothesis. -/
theorem traceOnlyGrows : Obligations.TraceOnlyGrows := by
  intro s t hnoreset h
  rcases step_cases h with ⟨ts, -, hm⟩ | ⟨ts, -, ht⟩ | ⟨ts, hr, -⟩
  · exact mainStep_out_prefix (s := { s with turns := ts }) hm
  · exact timerStep_out_prefix (s := { s with turns := ts }) ht
  · exact absurd (by rw [hr]; rfl) hnoreset

end Sys2Proof.Machine
end

section
/-! SUPPORT. The invariant holds after every reset, and every operation, every action of the main context and so every
step keeps it (10_state.md R15, R19 to R21, R26, R29; 70_reset_and_hazards.md R142). -/

namespace Sys2Proof.Machine

open Sys2Proof

/-! Reset. -/

/-- A reset with a legal font leaves a state of the invariant, whatever the power-up values are (R29, R141). -/
theorem State.afterReset_inv (n : Nat) {font : Vector Byte 65} (hf : FontLegal font) (port : List Command)
    (turns : List Turn) : (State.afterReset n font port turns).Inv where
  slots := fun h => nomatch h
  mask := fun h => nomatch h
  pins := fun h => nomatch h
  font := hf
  timer := rfl
  driven := rfl
  quiet := fun _ => ⟨rfl, rfl⟩
  stores := fun _ _ h => nomatch h

/-- Settles O1: the reset state's own fields, with the constraints every font table carries. -/
theorem resetLeavesTheBlockUnconfigured : Obligations.ResetLeavesTheBlockUnconfigured :=
  ⟨rfl, rfl, rfl, rfl, Config.font.legal⟩

/-- Settles O2: power-on is a reset with the legal font `Config.font`. -/
theorem resetMeetsTheInvariant : Obligations.ResetMeetsTheInvariant :=
  State.afterReset_inv 0 Config.font.legal [] []

/-! The updates of a running block, and those of any block. -/

theorem State.slot_congr {s t : State} (h : t.buf = s.buf) (p : Position) : t.slot p = s.slot p := by
  simp [State.slot, h]

/-- An update keeps the invariant when it keeps the mode, CFG, the font, the timer and whether the lines are driven,
writes only font indices, leaves only such writes to be done, and is quiet before CONFIGURE. -/
theorem State.Inv.of_update {s t : State} (hs : s.Inv) (hmode : t.mode = s.mode) (hcfg : t.cfg = s.cfg)
    (hfont : t.font = s.font) (htimer : t.timer = s.timer) (hlines : t.lines.isSome = s.lines.isSome)
    (hslots : s.mode = .running → ∀ p, (t.slot p).toNat ≤ 64)
    (hquiet : s.mode = .unconfigured → t.out = s.out ∧ t.pending = s.pending)
    (hstores : ∀ p v, Action.store p v ∈ t.pending → v.toNat ≤ 64) : t.Inv where
  slots := fun h => hslots (hmode ▸ h)
  mask := fun h => by rw [hcfg]; exact hs.mask (hmode ▸ h)
  pins := fun h => by rw [hcfg]; exact hs.pins (hmode ▸ h)
  font := by rw [hfont]; exact hs.font
  timer := by rw [htimer, hmode]; exact hs.timer
  driven := by rw [hlines, hmode]; exact hs.driven
  quiet := fun h => by
    obtain ⟨ho, hp⟩ := hquiet (hmode ▸ h)
    rw [ho, hp]
    exact hs.quiet (hmode ▸ h)
  stores := hstores

/-- The turns and the commands to come are free. -/
theorem State.Inv.schedule {s : State} (hs : s.Inv) (port : List Command) (turns : List Turn) :
    ({ s with port := port, turns := turns } : State).Inv :=
  hs.of_update rfl rfl rfl rfl rfl hs.slots (fun _ => ⟨rfl, rfl⟩) hs.stores

theorem State.Inv.recordLookup {s : State} (hs : s.Inv) (x : Byte) : (s.recordLookup x).Inv :=
  hs.of_update rfl rfl rfl rfl rfl hs.slots (fun _ => ⟨rfl, rfl⟩) hs.stores

theorem State.Inv.advanceCursor {s : State} (hs : s.Inv) : s.advanceCursor.Inv :=
  hs.of_update rfl rfl rfl rfl rfl hs.slots (fun _ => ⟨rfl, rfl⟩) hs.stores

/-- A slot takes a font index (R15). -/
theorem State.Inv.setSlot {s : State} (hs : s.Inv) (p : Position) {v : Byte} (hv : v.toNat ≤ 64) :
    (s.setSlot p v).Inv := by
  refine hs.of_update rfl rfl rfl rfl rfl (fun hm q => ?_) (fun _ => ⟨rfl, rfl⟩) hs.stores
  rw [State.slot_setSlot]
  split
  · exact hv
  · exact hs.slots hm q

/-- The main context takes up actions that write only font indices. -/
theorem State.Inv.issue {s : State} (hs : s.Inv) (hm : s.mode = .running) {as : List Action}
    (has : ∀ p v, Action.store p v ∈ as → v.toNat ≤ 64) : (s.issue as).Inv := by
  refine hs.of_update rfl rfl rfl rfl rfl hs.slots (fun hu => ?_) (fun p v h => ?_)
  · rw [hm] at hu; cases hu
  · rcases List.mem_append.mp h with hnew | hold
    · exact has p v hnew
    · exact hs.stores p v hold

/-- A running block may emit any event: its pin writes keep the lines driven. -/
theorem State.Inv.emit {s : State} (hs : s.Inv) (hm : s.mode = .running) (e : Event) : (s.emit e).Inv := by
  refine hs.of_update (by simp) (by simp) (by simp) (by simp) (State.emit_lines_isSome s e) (fun _ p => ?_)
    (fun hu => ?_) (by simpa using hs.stores)
  · rw [State.slot_congr (State.emit_buf s e)]; exact hs.slots hm p
  · rw [hm] at hu; cases hu

theorem State.Inv.shiftOut {s : State} (hs : s.Inv) (hm : s.mode = .running) (d c : PinId) (v : Byte) :
    (s.shiftOut d c v).Inv :=
  hs.emit hm _

/-- The four events of a frame, one after the other. -/
theorem State.Inv.sendFrame {s : State} (hs : s.Inv) (hm : s.mode = .running) (x : Byte) (p : Position) :
    (s.sendFrame x p).Inv :=
  (((hs.emit hm _).shiftOut (by simpa) _ _ _).shiftOut (by simpa) _ _ _).emit (by simpa) _

theorem State.Inv.refresh {s : State} (hs : s.Inv) (hm : s.mode = .running) (x : Byte) : (s.refresh x).Inv :=
  ((hs.recordLookup x).sendFrame hm x s.cur).advanceCursor

/-- CONFIGURE with distinct pins establishes what holds while running; of the state before it only the legal font and
the absence of work in progress count. -/
theorem State.Inv.configured {s : State} (hs : s.Inv) {l c d : PinId} (hp : l ≠ c ∧ l ≠ d ∧ c ≠ d) (anode : Bool) :
    (s.configured l c d anode).Inv where
  slots := fun _ => by
    have hblank : ∀ p : Position, ((#v[0, 0, 0, 0] : Vector Byte 4)[p.toNat]).toNat ≤ 64 := by decide
    exact hblank
  mask := fun _ => polarityMask_legal anode
  pins := fun _ => hp
  font := hs.font
  timer := rfl
  driven := rfl
  quiet := fun h => nomatch h
  stores := hs.stores

/-! Operations, actions, turns. -/

/-- Every operation that completes keeps the invariant. -/
theorem exec_keeps_inv {i : Instr} {s t : State} (hs : s.Inv) (h : exec i s = .next t) : t.Inv := by
  cases i with
  | configure l c d anode =>
    obtain ⟨-, hp, rfl⟩ := execConfigure_next h
    exact hs.configured hp anode
  | setchar p ch =>
    obtain ⟨-, q, -, rfl⟩ := execSetchar_next h
    exact hs.setSlot q (fontIndex_le ch)
  | clear =>
    obtain ⟨hm, rfl⟩ := execClear_next h
    exact hs.issue hm (clearActions_legal _)
  | tick =>
    obtain ⟨hm, x, -, rfl⟩ := execTick_next h
    exact hs.refresh hm x
  | setstring text =>
    obtain ⟨hm, as, has, rfl⟩ := execSetstring_next h
    exact hs.issue hm (setstringActions_legal text as has)
  | scroll text delay stride =>
    obtain ⟨hm, -, -, rfl⟩ := execScroll_next h
    exact hs.issue hm (scrollFrom_legal text _ _ _ _)
  | lookup code =>
    obtain ⟨j, x, -, -, rfl⟩ := execLookup_next h
    exact hs.recordLookup x
  | render x p =>
    obtain ⟨hm, q, -, rfl⟩ := execRender_next h
    exact hs.sendFrame hm x q
  | shiftout d c v =>
    obtain ⟨hm, rfl⟩ := execShiftout_next h
    exact hs.shiftOut hm d c v

/-- An operation is in progress only while running. -/
theorem State.Inv.running_of_pending {s : State} (hs : s.Inv) {a : Action} {rest : List Action}
    (hp : s.pending = a :: rest) : s.mode = .running := by
  by_contra hm
  obtain ⟨-, hnone⟩ := hs.quiet ((Mode.ne_running _).mp hm)
  simp [hnone] at hp

/-- The main context does its next action: the write it owed is of a font index. -/
theorem State.Inv.perform_next {s : State} (hs : s.Inv) {a : Action} {rest : List Action}
    (hp : s.pending = a :: rest) : (State.perform { s with pending := rest } a).Inv := by
  have hm := hs.running_of_pending hp
  have hrest : ({ s with pending := rest } : State).Inv := by
    refine hs.of_update rfl rfl rfl rfl rfl hs.slots (fun hu => ?_) (fun p v h => ?_)
    · rw [hm] at hu; cases hu
    · exact hs.stores p v (by rw [hp]; exact List.mem_cons_of_mem a h)
  cases a with
  | store p v => exact hrest.setSlot p (hs.stores p v (by simp [hp]))
  | sleep ms => exact hrest.emit hm (.sleep ms)

theorem mainStep_keeps_inv {s t : State} (hs : s.Inv) (h : mainStep s = .next t) : t.Inv := by
  rcases mainStep_cases h with ⟨a, rest, hp, rfl⟩ | ⟨c, cs, i, -, -, -, hi⟩ | ⟨-, -, -, ht⟩ | ⟨-, -, -, rfl⟩
  · exact hs.perform_next hp
  · exact exec_keeps_inv (hs.schedule cs s.turns) hi
  · exact exec_keeps_inv (i := .tick) hs ht
  · exact hs

theorem timerStep_keeps_inv {s t : State} (hs : s.Inv) (h : timerStep s = .next t) : t.Inv := by
  rcases timerStep_cases h with ⟨-, ht⟩ | ⟨-, rfl⟩
  · exact exec_keeps_inv (i := .tick) hs ht
  · exact hs

/-- Settles O42, by the agent whose turn it is. -/
theorem stepKeepsTheInvariant : Obligations.StepKeepsTheInvariant := by
  intro s t hs h
  rcases step_cases h with ⟨ts, -, hm⟩ | ⟨ts, -, ht⟩ | ⟨ts, -, rfl⟩
  · exact mainStep_keeps_inv (hs.schedule s.port ts) hm
  · exact timerStep_keeps_inv (hs.schedule s.port ts) ht
  · exact State.afterReset_inv _ hs.font _ _

end Sys2Proof.Machine
end

section
/-! SUPPORT. Only a TICK uses the wire and moves the cursor (R17, R41, R119, R136): what the host may issue otherwise,
and every action of the main context, leaves the cursor, the lines and the chain alone. -/

namespace Sys2Proof.Machine

open Sys2Proof

/-- From `s` to `t` nothing was sent: the cursor, the lines and the chain are the same, and the trace got at most a
SLEEP. -/
def SendsNothing (s t : State) : Prop :=
  t.cur = s.cur ∧ t.lines = s.lines ∧ t.chain = s.chain ∧ (t.out = s.out ∨ ∃ ms, t.out = s.out ++ [.sleep ms])

/-- Only the word 0x8000 is TICK (R61). -/
theorem eq_of_decode_tick {w : Word} (h : decode w = .ok .tick) : w = 0x8000#16 := by
  have hall : w &&& 0xFFFF#16 = w := BitVec.and_allOnes
  rw [decode_eq] at h
  split_ifs at h with _ _ _ htick <;> cases h
  rwa [hall] at htick

/-- A word stands for an operation the host may issue, or for TICK (R61). -/
theorem decode_hostMayIssue {w : Word} {i : Instr} (h : decode w = .ok i) : hostMayIssue i = true ∨ i = .tick := by
  rw [decode_eq] at h
  split_ifs at h <;> cases h <;> simp [hostMayIssue]

/-- A command of the port stands for an operation the host may issue, or it is the TICK word (R95, R136). -/
theorem Command.operation_cases {c : Command} {i : Instr} (h : c.operation = .ok i) :
    hostMayIssue i = true ∨ (c = .word 0x8000#16 ∧ i = .tick) := by
  cases c with
  | word w =>
    simp only [Command.operation] at h
    split at h
    · next j hj =>
      cases h
      rcases decode_hostMayIssue hj with hi | rfl
      · exact .inl hi
      · exact .inr ⟨by rw [eq_of_decode_tick hj], rfl⟩
    · cases h
  | call j =>
    simp only [Command.operation] at h
    split at h
    · next hj => cases h; exact .inl hj
    · cases h

/-- While running, an operation the host may issue sends nothing (R119). -/
theorem exec_sendsNothing {i : Instr} {s t : State} (hi : hostMayIssue i = true) (hm : s.mode = .running)
    (h : exec i s = .next t) : SendsNothing s t := by
  cases i with
  | configure l c d anode =>
    obtain ⟨hu, -, -⟩ := execConfigure_next h
    rw [hm] at hu
    cases hu
  | setchar p ch =>
    obtain ⟨-, q, -, rfl⟩ := execSetchar_next h
    exact ⟨rfl, rfl, rfl, .inl rfl⟩
  | clear =>
    obtain ⟨-, rfl⟩ := execClear_next h
    exact ⟨rfl, rfl, rfl, .inl rfl⟩
  | setstring text =>
    obtain ⟨-, as, -, rfl⟩ := execSetstring_next h
    exact ⟨rfl, rfl, rfl, .inl rfl⟩
  | scroll text delay stride =>
    obtain ⟨-, -, -, rfl⟩ := execScroll_next h
    exact ⟨rfl, rfl, rfl, .inl rfl⟩
  | tick | lookup _ | render _ _ | shiftout _ _ _ => cases hi

theorem State.perform_sendsNothing (s : State) (a : Action) : SendsNothing s (s.perform a) := by
  cases a with
  | store p v => exact ⟨rfl, rfl, rfl, .inl rfl⟩
  | sleep ms => exact ⟨rfl, rfl, rfl, .inr ⟨ms, rfl⟩⟩

/-- TICK sends the frame of the slot at the cursor, advances the cursor, and leaves the buffer and the main context's
work alone (R95, R97). -/
theorem execTick_frame {s t : State} (h : execTick s = .next t) :
    t.cur = s.cur + 1 ∧ t.buf = s.buf ∧ t.pending = s.pending ∧
      t.out = s.out ++ frameEvents s.cfg (digitSelect s.cfg.mask s.cur)
        (segmentByte s.cfg.mask (s.patternAt s.cur)) := by
  obtain ⟨-, x, hx, rfl⟩ := execTick_next h
  have hpattern : s.patternAt s.cur = x := by simp [State.patternAt, hx]
  simp [hpattern]

/-- The main context's turn while running is a TICK, by its word or with nothing left to do, or it sends nothing. -/
theorem mainStep_tick_or_sendsNothing {s t : State} (hm : s.mode = .running) (h : mainStep s = .next t) :
    (∃ cs, (s.port = cs ∨ s.port = .word 0x8000#16 :: cs) ∧ execTick { s with port := cs } = .next t) ∨
      SendsNothing s t := by
  rcases mainStep_cases h with
    ⟨a, rest, -, rfl⟩ | ⟨c, cs, i, -, hport, hop, hi⟩ | ⟨-, -, -, ht⟩ | ⟨-, -, -, rfl⟩
  · exact .inr (State.perform_sendsNothing { s with pending := rest } a)
  · rcases Command.operation_cases hop with hhost | ⟨rfl, rfl⟩
    · exact .inr (exec_sendsNothing (s := { s with port := cs }) hhost hm hi)
    · exact .inl ⟨cs, .inr hport, hi⟩
  · exact .inl ⟨s.port, .inl rfl, ht⟩
  · exact .inr ⟨rfl, rfl, rfl, .inl rfl⟩

/-- The timer's turn is a TICK, or nothing happens. -/
theorem timerStep_tick_or_sendsNothing {s t : State} (h : timerStep s = .next t) :
    execTick s = .next t ∨ SendsNothing s t := by
  rcases timerStep_cases h with ⟨-, ht⟩ | ⟨-, rfl⟩
  · exact .inl ht
  · exact .inr ⟨rfl, rfl, rfl, .inl rfl⟩

/-- A step of a running block is a TICK on the state with the turn and any TICK word taken, or it sends nothing. -/
theorem step_tick_or_sendsNothing {s t : State} (hm : s.mode = .running) (hnoreset : s.turns.head? ≠ some .reset)
    (h : step s = .next t) :
    (∃ cs, (s.port = cs ∨ s.port = .word 0x8000#16 :: cs) ∧
      execTick { s with turns := s.turns.tail, port := cs } = .next t) ∨ SendsNothing s t := by
  rcases step_cases h with ⟨ts, hts, hmain⟩ | ⟨ts, hts, htimer⟩ | ⟨ts, hts, -⟩
  · have htail : s.turns.tail = ts := by rcases hts with ⟨h0, rfl⟩ | h0 <;> simp [h0]
    rw [htail]
    exact mainStep_tick_or_sendsNothing (s := { s with turns := ts }) hm hmain
  · have htail : s.turns.tail = ts := by simp [hts]
    rw [htail]
    exact (timerStep_tick_or_sendsNothing htimer).imp (fun ht => ⟨s.port, .inl rfl, ht⟩) id
  · exact absurd (by rw [hts]; rfl) hnoreset

/-- Settles O44: a step that is a TICK has the frame of TICK, and every other step sends nothing. -/
theorem onlyTicksMoveTheCursor : Obligations.OnlyTicksMoveTheCursor := by
  intro s t hm hnoreset h
  refine (step_tick_or_sendsNothing hm hnoreset h).imp ?_ id
  rintro ⟨cs, hport, ht⟩
  exact ⟨cs, hport, ht, execTick_frame (s := { s with turns := s.turns.tail, port := cs }) ht⟩

end Sys2Proof.Machine
end

section
/-! SUPPORT. The main context's turn, given by the schedule or left over when it is used up: one action of the operation
in progress, or the issue of the word at the port (20_memory.md R38, R40; 30_encoding.md R61, R62). -/

namespace Sys2Proof.Machine

open Sys2Proof

/-- The main context acts when it is given the turn, and when no turn is left (log 9). -/
theorem step_mainTurn (s : State) (ts : List Turn) (h : s.turns = .main :: ts ∨ s.turns = [] ∧ ts = []) :
    step s = mainStep { s with turns := ts } := by
  rcases h with h | ⟨h, rfl⟩
  · exact step_main s ts h
  · have hs : ({ s with turns := [] } : State) = s := by rw [← h]
    rw [hs, step_no_turns s h]

theorem Command.operation_word_error (w : Word) (e : DecodeError) (h : decode w = .error e) :
    (Command.word w).operation = .error .reservedStimulus := by
  simp [Command.operation, h]

/-- Settles O22: the turn is the first pending action, performed on the state without it. -/
theorem mainContextDoesOneActionAtATime : Obligations.MainContextDoesOneActionAtATime := by
  intro s rest ts hturn
  have hact (a : Action) (hp : s.pending = a :: rest) :
      step s = .next (State.perform { s with pending := rest, turns := ts } a) :=
    (step_mainTurn s ts hturn).trans (mainStep_act { s with turns := ts } a rest hp)
  exact ⟨fun p v hp => hact (.store p v) hp, fun ms hp => hact (.sleep ms) hp⟩

/-- Settles O48: with no action pending the turn issues what the word decodes to, or refuses it. -/
theorem stepRunsTheDecodedWord : Obligations.StepRunsTheDecodedWord := by
  intro s w cs ts hp hport hturn
  refine ⟨fun i hi => ?_, fun e he => ?_⟩
  · have hop := Command.operation_word w i hi
    exact (step_mainTurn s ts hturn).trans (mainStep_issue { s with turns := ts } _ cs i hp hport hop)
  · have hop := Command.operation_word_error w e he
    exact (step_mainTurn s ts hturn).trans (mainStep_bad { s with turns := ts } _ cs _ hp hport hop)

end Sys2Proof.Machine
end

section
/-! SUPPORT. What the external chain holds and shows: writes to other pins than the latch leave the outputs (20_memory.md
R45), a frame puts its two bytes there bit-reversed (R46), and they light the pattern (R47, R152). -/

namespace Sys2Proof.Machine

open Sys2Proof

/-! Only the latch moves the outputs. -/

@[simp] theorem State.writePin_cfg (s : State) (pin : PinId) (level : Bool) : (s.writePin pin level).cfg = s.cfg := by
  rw [State.writePin_eq]

/-- Without a rise of the latch the outputs stay, whatever the clock does. -/
theorem Chain.follow_q_of_latch_eq (c : Chain) {before after : Levels} (h : after.latch = before.latch) :
    (c.follow before after).q = c.q := by
  have hnorise : (!before.latch && after.latch) = false := by rw [h]; exact Bool.not_and_self _
  have hshift : (if !before.sclk && after.sclk then c.shiftIn after.sdata else c).q = c.q := by split <;> rfl
  simpa only [Chain.follow, hnorise, Bool.false_eq_true, if_false] using hshift

theorem State.writePin_q (s : State) {pin : PinId} (level : Bool) (h : pin ≠ s.cfg.latch) :
    (s.writePin pin level).chain.q = s.chain.q := by
  cases hl : s.lines with
  | none => simp [State.writePin, hl]
  | some lv =>
    have hlatch : (driveLine lv s.cfg pin level).latch = lv.latch := by simp [driveLine, h]
    simp [State.writePin, hl, Chain.follow_q_of_latch_eq _ hlatch]

theorem State.writePins_q (ws : List (PinId × Bool)) (s : State) (h : ∀ w ∈ ws, w.1 ≠ s.cfg.latch) :
    (s.writePins ws).chain.q = s.chain.q := by
  induction ws generalizing s with
  | nil => rfl
  | cons w ws ih =>
    have hrest := ih (s.writePin w.1 w.2) fun v hv => by simpa using h v (List.mem_cons_of_mem w hv)
    have hw := State.writePin_q s w.2 (h w List.mem_cons_self)
    exact hrest.trans hw

theorem mem_pinWrites_shift {d c : PinId} {v : Byte} {w : PinId × Bool} (h : w ∈ (Event.shift d c v).pinWrites) :
    w.1 = d ∨ w.1 = c := by
  simp only [Event.pinWrites, bitWrites, List.mem_flatMap, List.mem_cons, List.not_mem_nil, or_false] at h
  obtain ⟨b, -, rfl | rfl | rfl⟩ := h
  · exact .inl rfl
  · exact .inr rfl
  · exact .inr rfl

theorem State.shiftOut_q (s : State) {d c : PinId} (v : Byte) (hd : s.cfg.latch ≠ d) (hc : s.cfg.latch ≠ c) :
    (s.shiftOut d c v).chain.q = s.chain.q := by
  refine State.writePins_q _ s fun w hw => ?_
  rcases mem_pinWrites_shift hw with h | h <;> rw [h]
  · exact hd.symm
  · exact hc.symm

/-- Settles O33: a SHIFT writes the data and the clock pin only, and neither is the latch. -/
theorem shiftingLeavesTheOutputs : Obligations.ShiftingLeavesTheOutputs := by
  intro s v hm hlc hld
  exact ⟨s.shiftOut s.cfg.data s.cfg.clock v, State.whenRunning_running s hm _ _, State.shiftOut_q s v hld hlc⟩

/-! The two bytes of a frame in the chain. -/

@[simp] theorem length_lsbFirst (v : Byte) : (lsbFirst v).length = 8 := rfl

theorem getElem_lsbFirst (v : Byte) (i : Nat) (h : i < (lsbFirst v).length) : (lsbFirst v)[i] = v.getLsbD i := by
  have hmap : lsbFirst v = (List.range 8).map v.getLsbD := rfl
  simp [hmap]

/-- The 16 outputs of a frame: both bytes bit-reversed, the first one sent in the far half (R46). -/
def frameOutputs (far near : Byte) : BitVec 16 := far.reverse ++ near.reverse

theorem frameOutputs_getLsbD_far (far near : Byte) (i : Fin 8) :
    (frameOutputs far near).getLsbD (15 - i) = far.getLsbD i := by
  have hfar : ¬ 15 - i.val < 8 := by omega
  have hmirror : 7 - (15 - i.val - 8) = i.val := by omega
  have hlt : 15 - i.val - 8 < 8 := by omega
  rw [frameOutputs, BitVec.getLsbD_append (n := 8) (m := 8), if_neg hfar, BitVec.getLsbD_reverse,
    BitVec.getMsbD_eq_getLsbD]
  simp [hmirror, hlt]

theorem frameOutputs_getLsbD_near (far near : Byte) (i : Fin 8) :
    (frameOutputs far near).getLsbD (7 - i) = near.getLsbD i := by
  have hnear : 7 - i.val < 8 := by omega
  have hmirror : 7 - (7 - i.val) = i.val := by omega
  rw [frameOutputs, BitVec.getLsbD_append (n := 8) (m := 8), if_pos hnear, BitVec.getLsbD_reverse,
    BitVec.getMsbD_eq_getLsbD]
  simp [hmirror, hnear]

theorem frameOutputs_toNat (far near : Byte) :
    (frameOutputs far near).toNat = far.reverse.toNat * 256 + near.reverse.toNat := by
  rw [frameOutputs, BitVec.toNat_append, ← Nat.shiftLeft_add_eq_or_of_lt near.reverse.isLt, Nat.shiftLeft_eq]

/-- Two bytes shifted in, each bit 0 first, fill all the stages (R44, R46). -/
theorem Chain.shiftBits_twoBytes (c : Chain) (far near : Byte) :
    (c.shiftBits (lsbFirst far ++ lsbFirst near)).sr = frameOutputs far near := by
  refine BitVec.eq_of_getLsbD_eq fun k hk => ?_
  rw [Chain.shiftBits_getLsbD _ _ _ (by simpa using hk) hk]
  by_cases hnear : k < 8
  · have hi : 7 - (7 - k) = k := by omega
    have hbit := frameOutputs_getLsbD_near far near ⟨7 - k, by omega⟩
    simp only [hi] at hbit
    rw [hbit, List.getElem_append_right (by simp; omega), getElem_lsbFirst]
    congr 1
    simp
    omega
  · have hi : 15 - (15 - k) = k := by omega
    have hbit := frameOutputs_getLsbD_far far near ⟨15 - k, by omega⟩
    simp only [hi] at hbit
    rw [hbit, List.getElem_append_left (by simp; omega), getElem_lsbFirst]
    congr 1

/-! What a frame leaves in the chain and on the lines (R26, R46). -/

theorem exec_render (s : State) (x : Byte) (p : Position) (hm : s.mode = .running) :
    exec (.render x p.toNat) s = .next (s.sendFrame x p) := by
  simp [exec, execRender, State.whenRunning_running s hm]

section Frame

variable (s : State) (x : Byte) (p : Position) {lv : Levels} (hpins : s.cfg.Distinct) (hl : s.lines = some lv)
  (hc : lv.sclk = false)
include hpins hl hc

theorem State.sendFrame_chain : (s.sendFrame x p).chain =
    ⟨frameOutputs (digitSelect s.cfg.mask p) (segmentByte s.cfg.mask x),
      frameOutputs (digitSelect s.cfg.mask p) (segmentByte s.cfg.mask x)⟩ := by
  rw [State.sendFrame_wire s hpins lv hl hc, Chain.shiftBits_twoBytes]

theorem State.sendFrame_lines :
    (s.sendFrame x p).lines = some ⟨true, false, (segmentByte s.cfg.mask x).getLsbD 7⟩ := by
  rw [State.sendFrame_wire s hpins lv hl hc]

theorem State.sendFrame_digitLine (j : Fin 8) :
    (s.sendFrame x p).chain.digitLine j = (digitSelect s.cfg.mask p).getLsbD j := by
  rw [State.sendFrame_chain s x p hpins hl hc]
  exact frameOutputs_getLsbD_far _ _ j

theorem State.sendFrame_segmentLine (j : Fin 8) :
    (s.sendFrame x p).chain.segmentLine j = (segmentByte s.cfg.mask x).getLsbD j := by
  rw [State.sendFrame_chain s x p hpins hl hc]
  exact frameOutputs_getLsbD_near _ _ j

end Frame

/-- Settles O30: the chain holds the frame's two bytes in its stages and in its outputs. -/
theorem frameReachesTheOutputs : Obligations.FrameReachesTheOutputs := by
  intro s x p lv hm hlc hld hcd hl hc
  have hpins : s.cfg.Distinct := ⟨hlc, hld, hcd⟩
  refine ⟨s.sendFrame x p, exec_render s x p hm, ?_⟩
  rw [State.sendFrame_chain s x p hpins hl hc, State.sendFrame_lines s x p hpins hl hc]
  exact ⟨fun i => ⟨frameOutputs_getLsbD_far _ _ i, frameOutputs_getLsbD_near _ _ i⟩, frameOutputs_toNat _ _, rfl, rfl⟩

/-! What the lines of a frame mean, in both polarities (R47, R54 to R56, R152). -/

/-- The enable line of position q is active in the frame of position p for anode when q is p, for cathode when q is
at most p. -/
theorem digitSelect_enables {mask : Byte} (h : mask = 0xFF#8 ∨ mask = 0x00#8) (p q : Position) :
    ((digitSelect mask p).getLsbD (7 - q.toNat) == decide (mask = 0xFF#8)) =
      if mask = 0xFF#8 then decide (q = p) else decide (q ≤ p) := by
  rcases h with rfl | rfl <;> revert p q <;> decide

/-- The lines DS[3:0] are at the inactive level. -/
theorem digitSelect_low_inactive {mask : Byte} (h : mask = 0xFF#8 ∨ mask = 0x00#8) (p : Position) (j : Fin 8)
    (hj : j.val < 4) : (digitSelect mask p).getLsbD j = decide (mask ≠ 0xFF#8) := by
  rcases h with rfl | rfl <;> revert p j <;> decide

/-- A segment line is active exactly when the pattern's bit is set. -/
theorem segmentByte_active {mask : Byte} (h : mask = 0xFF#8 ∨ mask = 0x00#8) (x : Byte) (j : Fin 8) :
    ((segmentByte mask x).getLsbD j != decide (mask = 0xFF#8)) = x.getLsbD j := by
  rcases h with rfl | rfl
  · have hnot : segmentByte 0xFF#8 x = ~~~x := BitVec.allOnes_xor
    simp [hnot]
  · simp [segmentByte]

/-- Settles O32: the lines of the frame hold its two bytes, whose bits mean what R47 says in either polarity. -/
theorem displayShowsThePattern : Obligations.DisplayShowsThePattern := by
  intro s x p lv hs hm hl hc
  have hpins : s.cfg.Distinct := hs.pins hm
  have hmask := hs.mask hm
  refine ⟨s.sendFrame x p, exec_render s x p hm, fun q => ?_, fun q j => ?_, fun j hj => ?_⟩
  · rw [State.enabled, State.sendFrame_digitLine s x p hpins hl hc, State.sendFrame_cfg]
    exact digitSelect_enables hmask p q
  · rw [State.lit, State.segmentActive, State.sendFrame_segmentLine s x p hpins hl hc, State.sendFrame_cfg,
      segmentByte_active hmask]
  · rw [State.sendFrame_digitLine s x p hpins hl hc]
    exact digitSelect_low_inactive hmask p j hj

end Sys2Proof.Machine
end

section
/-! SUPPORT. A group of actions runs to its end whatever whole TICKs fall among them: each turn is one action or one TICK,
and a TICK touches neither the buffer nor the SLEEP events, an action not the cursor (20_memory.md R40 to R42). -/

namespace Sys2Proof.Machine

open Sys2Proof

/-! The SLEEP events of a trace, and what the actions do to buffer and trace. -/

@[simp] theorem sleepEvents_append (xs ys : List Event) :
    sleepEvents (xs ++ ys) = sleepEvents xs ++ sleepEvents ys := by simp [sleepEvents]

@[simp] theorem sleepEvents_frameEvents (cfg : DisplayConfig) (ds sg : Byte) :
    sleepEvents (frameEvents cfg ds sg) = [] := rfl

theorem applyStores_cons (s : State) (a : Action) (as : List Action) :
    applyStores s.buf (a :: as) = applyStores (s.perform a).buf as := by
  cases a <;> rfl

theorem sleepEvents_perform (s : State) (a : Action) (as : List Action) :
    sleepEvents (s.perform a).out ++ sleepsOf as = sleepEvents s.out ++ sleepsOf (a :: as) := by
  cases a with
  | store p v => rfl
  | sleep ms => simp [sleepEvents, sleepsOf]

/-! The timer's turn of a running block. -/

theorem State.Inv.timerAttached {s : State} (hs : s.Inv) (hm : s.mode = .running) : s.timerAttached = true := by
  simp [State.timerAttached, hs.timer, hm]

/-- The timer's turn completes with a TICK (R95, R15). -/
theorem timerStep_refresh {s : State} (hs : s.Inv) (hm : s.mode = .running) :
    ∃ x, timerStep s = .next (s.refresh x) := by
  rw [timerStep, hs.timerAttached hm, if_pos rfl]
  exact ⟨_, execTick_completes s hm (hs.slots hm s.cur)⟩

theorem step_tick_refresh {s : State} {ts : List Turn} (hs : s.Inv) (hm : s.mode = .running)
    (ht : s.turns = .tick :: ts) : ∃ x, step s = .next (State.refresh { s with turns := ts } x) := by
  rw [step_tick s ts ht]
  exact timerStep_refresh (hs.schedule s.port ts) hm

/-! Any schedule of the two. -/

/-- The state `u` is where the group `as` ends when the schedule `ts` has run from `s`: the buffer and the SLEEP events
are the group's, the cursor is moved by the TICKs, and `more` and `rest` are left to do. -/
def GroupCompleted (s : State) (as more : List Action) (ts rest : List Turn) (u : State) : Prop :=
  u.buf = applyStores s.buf as ∧ u.cur = s.cur + BitVec.ofNat 2 (ticksIn ts) ∧
    sleepEvents u.out = sleepEvents s.out ++ sleepsOf as ∧
    u.mode = .running ∧ u.cfg = s.cfg ∧ u.font = s.font ∧ u.timer = s.timer ∧
    u.pending = more ∧ u.port = s.port ∧ u.turns = rest

/-- A TICK before the rest of the schedule adds one to the cursor. -/
theorem GroupCompleted.of_tick {s u : State} {as more : List Action} {ts rest turns : List Turn} {x : Byte}
    (h : GroupCompleted (State.refresh { s with turns := turns } x) as more ts rest u) :
    GroupCompleted s as more (.tick :: ts) rest u := by
  obtain ⟨hbuf, hcur, hout, hmode, hcfg, hfont, htimer, hpending, hport, hturns⟩ := h
  refine ⟨by simpa using hbuf, ?_, by simpa using hout, hmode, by simpa using hcfg, by simpa using hfont,
    by simpa using htimer, hpending, by simpa using hport, hturns⟩
  have hticks : ticksIn (.tick :: ts) = 1 + ticksIn ts := by simp [ticksIn, Nat.add_comm]
  rw [hcur, hticks, BitVec.ofNat_add, ← BitVec.add_assoc]
  simp

/-- An action before the rest of the group does its share of the buffer and of the SLEEP events. -/
theorem GroupCompleted.of_action {s u : State} {a : Action} {as more pending : List Action} {ts rest turns : List Turn}
    (h : GroupCompleted (State.perform { s with pending := pending, turns := turns } a) as more ts rest u) :
    GroupCompleted s (a :: as) more (.main :: ts) rest u := by
  obtain ⟨hbuf, hcur, hout, hmode, hcfg, hfont, htimer, hpending, hport, hturns⟩ := h
  have hticks : ticksIn (.main :: ts) = ticksIn ts := by simp [ticksIn]
  refine ⟨?_, by simpa [hticks] using hcur, ?_, hmode, by simpa using hcfg, by simpa using hfont,
    by simpa using htimer, hpending, by simpa using hport, hturns⟩
  · rw [hbuf, ← applyStores_cons]
  · rw [hout, sleepEvents_perform]

/-- A running block completes the group under every reset-free schedule with one turn for each of its actions. -/
theorem run_completes_group (ts : List Turn) (s : State) (as more : List Action) (rest : List Turn) (hs : s.Inv)
    (hm : s.mode = .running) (hp : s.pending = as ++ more) (ht : s.turns = ts ++ rest)
    (hnoreset : ts.count .reset = 0) (hmains : mainsIn ts = as.length) :
    ∃ u, run ts.length s = .next u ∧ GroupCompleted s as more ts rest u := by
  induction ts generalizing s as with
  | nil =>
    obtain rfl : as = [] := List.eq_nil_of_length_eq_zero hmains.symm
    exact ⟨s, rfl, rfl, by simp [ticksIn], by simp [sleepsOf], hm, rfl, rfl, rfl, hp, rfl, ht⟩
  | cons turn ts ih =>
    cases turn with
    | main =>
      cases as with
      | nil => simp [mainsIn] at hmains
      | cons a as =>
        have hstep := step_main_act s a (as ++ more) (ts ++ rest) ht hp
        obtain ⟨u, hrun, hu⟩ := ih _ as (stepKeepsTheInvariant s _ hs hstep) (by simpa using hm) (by simp) (by simp)
          (by simpa using hnoreset) (by simpa [mainsIn] using hmains)
        exact ⟨u, (run_succ_of_next ts.length hstep).trans hrun, hu.of_action⟩
    | tick =>
      obtain ⟨x, hstep⟩ := step_tick_refresh hs hm ht
      obtain ⟨u, hrun, hu⟩ := ih _ as (stepKeepsTheInvariant s _ hs hstep) (by simpa using hm) (by simpa using hp)
        (by simp) (by simpa using hnoreset) (by simpa [mainsIn] using hmains)
      exact ⟨u, (run_succ_of_next ts.length hstep).trans hrun, hu.of_tick⟩
    | reset => simp at hnoreset

/-- Settles O13, by induction on the schedule. -/
theorem groupsCompleteUnderEveryInterleaving : Obligations.GroupsCompleteUnderEveryInterleaving :=
  fun s as more ts rest hs hm hp ht hnoreset hmains => run_completes_group ts s as more rest hs hm hp ht hnoreset hmains

end Sys2Proof.Machine
end

section
/-! SUPPORT. The stimulus words as numbers (30_encoding.md R60 to R62): a row of the opcode map fixes the high bits of a
word, so it is a range of numbers, and the fields are the digits below it. -/

namespace Sys2Proof

/-! The rows as ranges. -/

/-- A mask of all bits from `k` on keeps the multiple of `2 ^ k` below the word. -/
theorem toNat_and_highMask (w : Word) {k : Nat} {mask : Word} (hmask : mask = BitVec.allOnes 16 <<< k) :
    (w &&& mask).toNat = w.toNat / 2 ^ k * 2 ^ k := by
  have hle : w.toNat / 2 ^ k * 2 ^ k ≤ w.toNat := Nat.div_mul_le_self _ _
  rw [hmask, ← BitVec.shiftLeft_ushiftRight, BitVec.toNat_shiftLeft, BitVec.toNat_ushiftRight, Nat.shiftLeft_eq,
    Nat.shiftRight_eq_div_pow, Nat.mod_eq_of_lt (by omega)]

theorem configureRow_iff (w : Word) : w &&& 0xFFFE#16 = 0x1000#16 ↔ w.toNat = 0x1000 ∨ w.toNat = 0x1001 := by
  have hmask := toNat_and_highMask w (k := 1) (mask := 0xFFFE#16) (by decide)
  rw [← BitVec.toNat_inj, hmask, BitVec.toNat_ofNat]
  omega

theorem setcharRow_iff (w : Word) : w &&& 0xFC00#16 = 0x2000#16 ↔ 0x2000 ≤ w.toNat ∧ w.toNat ≤ 0x23FF := by
  have hmask := toNat_and_highMask w (k := 10) (mask := 0xFC00#16) (by decide)
  rw [← BitVec.toNat_inj, hmask, BitVec.toNat_ofNat]
  omega

/-- A row that fixes all 16 bits has one word. -/
theorem fullRow_iff (w p : Word) : w &&& 0xFFFF#16 = p ↔ w = p := by
  have hall : w &&& 0xFFFF#16 = w := BitVec.and_allOnes
  rw [hall]

/-- A word decodes exactly when it lies in one of the four rows. -/
theorem decode_ok_iff_row (w : Word) : (∃ i, decode w = .ok i) ↔
    w &&& 0xFFFE#16 = 0x1000#16 ∨ w &&& 0xFC00#16 = 0x2000#16 ∨ w &&& 0xFFFF#16 = 0x3000#16 ∨
      w &&& 0xFFFF#16 = 0x8000#16 := by
  rw [decode_eq]
  split_ifs <;> simp [*]

/-- The defined words as numbers (R61, R62). -/
theorem decode_ok_iff (w : Word) : (∃ i, decode w = .ok i) ↔
    (w.toNat = 0x1000 ∨ w.toNat = 0x1001 ∨ 0x2000 ≤ w.toNat ∧ w.toNat ≤ 0x23FF ∨ w.toNat = 0x3000 ∨
      w.toNat = 0x8000) := by
  rw [decode_ok_iff_row, configureRow_iff, setcharRow_iff, fullRow_iff, fullRow_iff, ← BitVec.toNat_inj,
    ← BitVec.toNat_inj, or_assoc]
  rfl

/-! The word of a SETCHAR. -/

/-- The word of SETCHAR p, ch (R60, R61). -/
def setcharWord (p : Position) (ch : Byte) : Word :=
  0x2000#16 ||| (BitVec.ofNat 16 p.toNat <<< 8) ||| ch.setWidth 16

theorem encode_setchar (p : Position) (ch : Byte) : encode (.setchar p.toNat ch) = some (setcharWord p ch) := by
  have hp : p.toNat ≤ 3 := by omega
  simp only [encode, if_pos hp, setcharWord]

/-- The fields of the word do not overlap. -/
theorem toNat_setcharWord (p : Position) (ch : Byte) :
    (setcharWord p ch).toNat = 0x2000 + 256 * p.toNat + ch.toNat := by
  have hp : p.toNat < 2 ^ 2 := p.isLt
  have hhigh : 0x2000 ||| 256 * p.toNat = 2 ^ 8 * (0x20 + p.toNat) := by
    have hor : 2 ^ 13 * 1 + 256 * p.toNat = 0x2000 ||| 256 * p.toNat := Nat.two_pow_add_eq_or_of_lt (by omega) 1
    omega
  have hlow := Nat.two_pow_add_eq_or_of_lt ch.isLt (0x20 + p.toNat)
  have hshift : (BitVec.ofNat 16 p.toNat <<< 8).toNat = 256 * p.toNat := by
    rw [BitVec.toNat_shiftLeft, BitVec.toNat_ofNat, Nat.shiftLeft_eq]
    omega
  have hch : (ch.setWidth 16).toNat = ch.toNat := by
    rw [BitVec.toNat_setWidth]
    omega
  rw [setcharWord, BitVec.toNat_or, BitVec.toNat_or, hshift, hch, BitVec.toNat_ofNat]
  change (0x2000 ||| 256 * p.toNat) ||| ch.toNat = _
  rw [hhigh, ← hlow]
  omega

theorem positionField_toNat (w : Word) : (positionField w).toNat = w.toNat / 256 % 4 := by
  rw [positionField, BitVec.extractLsb'_toNat, Nat.shiftRight_eq_div_pow]

theorem charField_toNat (w : Word) : (charField w).toNat = w.toNat % 256 := by
  rw [charField, BitVec.extractLsb'_toNat, Nat.shiftRight_zero]

/-- A word of SETCHAR's row is put together again from its two fields. -/
theorem setcharWord_fields {w : Word} (h : w &&& 0xFC00#16 = 0x2000#16) :
    setcharWord (positionField w) (charField w) = w := by
  obtain ⟨hlo, hhi⟩ := (setcharRow_iff w).mp h
  rw [← BitVec.toNat_inj, toNat_setcharWord, positionField_toNat, charField_toNat]
  omega

/-- The two words of CONFIGURE's row differ in the anode bit only. -/
theorem encode_configure_anodeField {w : Word} (h : w &&& 0xFFFE#16 = 0x1000#16) :
    encode (.configure .latchPin .clockPin .dataPin (anodeField w)) = some w := by
  have hw : w = 0x1000#16 ∨ w = 0x1001#16 :=
    ((configureRow_iff w).mp h).imp BitVec.eq_of_toNat_eq BitVec.eq_of_toNat_eq
  rcases hw with rfl | rfl <;> decide

/-! Decoder and encoder. -/

/-- Settles O56, by the constructors of Instr. -/
theorem everyWordDecodesToItsOperation : Obligations.EveryWordDecodesToItsOperation := by
  intro i
  cases i with
  | configure l c d anode => exact Laws.WordDecodes.configure l c d anode
  | setchar p ch => exact Laws.WordDecodes.setchar p ch
  | clear => exact Laws.WordDecodes.clear
  | tick => exact Laws.WordDecodes.tick
  | setstring text => exact Laws.WordDecodes.setstring text
  | scroll text delay stride => exact Laws.WordDecodes.scroll text delay stride
  | lookup code => exact Laws.WordDecodes.lookup code
  | render x p => exact Laws.WordDecodes.render x p
  | shiftout d c v => exact Laws.WordDecodes.shiftout d c v

/-- The operations that have a word are the ones the encoder answers. -/
theorem encode_isSome (i : Instr) : (encode i).isSome = i.hasWord := by
  cases i with
  | configure l c d anode =>
    rw [Bool.eq_iff_iff]
    simp [encode, Instr.hasWord, and_assoc]
  | setchar p ch =>
    rw [Bool.eq_iff_iff]
    simp [encode, Instr.hasWord]
  | clear | tick | setstring _ | scroll _ _ _ | lookup _ | render _ _ | shiftout _ _ _ => rfl

/-- Settles O54: the operation has a word, and an operation's word decodes to it. -/
theorem decodeInvertsEncode : Obligations.DecodeInvertsEncode := by
  intro i hi
  obtain ⟨w, hw⟩ := Option.isSome_iff_exists.mp ((encode_isSome i).trans hi)
  exact ⟨w, hw, everyWordDecodesToItsOperation i w hw⟩

/-- Encoding what a word decodes to gives the word back, row by row of the map. -/
theorem encode_of_decode {w : Word} {i : Instr} (h : decode w = .ok i) : encode i = some w := by
  rw [decode_eq] at h
  split_ifs at h with hconfigure hsetchar hclear htick <;> cases h
  · exact encode_configure_anodeField hconfigure
  · rw [encode_setchar, setcharWord_fields hsetchar]
  · rw [(fullRow_iff w _).mp hclear]
    rfl
  · rw [(fullRow_iff w _).mp htick]
    rfl

/-- Settles O55: the word comes back, so the operation has one. -/
theorem encodeInvertsDecode : Obligations.EncodeInvertsDecode := by
  intro w i h
  have hw := encode_of_decode h
  exact ⟨hw, by rw [← encode_isSome, hw]; rfl⟩

/-- Settles O52: seven words of the map, each run through the decoder. -/
theorem wordsOfTheMapDecode : Obligations.WordsOfTheMapDecode := by
  refine ⟨?_, ?_, ?_, ?_, ?_, ?_, ?_⟩ <;> decide

/-! No word is in two rows. -/

/-- Rows that fix some bit to different values select no common word. -/
theorem OpcodeRow.disjoint_not_both {r r' : OpcodeRow} (h : r.disjoint r' = true) (w : Word) :
    ¬ (r.selects w = true ∧ r'.selects w = true) := by
  rintro ⟨hr, hr'⟩
  have hp : w &&& r.mask = r.pattern := beq_iff_eq.mp hr
  have hp' : w &&& r'.mask = r'.pattern := beq_iff_eq.mp hr'
  have hagree : (r.pattern ^^^ r'.pattern) &&& r.mask &&& r'.mask = 0#16 := by
    rw [← hp, ← hp']
    ext j hj
    simp only [BitVec.getElem_and, BitVec.getElem_xor, BitVec.getElem_zero]
    cases w[j] <;> cases r.mask[j] <;> cases r'.mask[j] <;> rfl
  exact bne_iff_ne.mp h hagree

theorem opcodeMap_disjoint : ∀ r ∈ opcodeMap, ∀ r' ∈ opcodeMap, r ≠ r' → r.disjoint r' = true := by
  decide

/-- Settles O53: different rows of the map are disjoint. -/
theorem opcodeRowsNeverOverlap : Obligations.OpcodeRowsNeverOverlap := by
  intro w r r' hr hr' hw hw'
  by_contra hne
  exact OpcodeRow.disjoint_not_both (opcodeMap_disjoint r hr r' hr' hne) w ⟨hw, hw'⟩

end Sys2Proof

namespace Sys2Proof.Machine

open Sys2Proof

/-! The step and the word at the port. -/

/-- Settles O51: the rows as numbers, and the step's refusal of a word that is in none of them. -/
theorem reservedWordsAreRefused : Obligations.ReservedWordsAreRefused := by
  refine ⟨decode_ok_iff, fun s w cs hp ht hport hreserved => ?_⟩
  obtain ⟨-, hrefused⟩ := stepRunsTheDecodedWord s w cs [] hp hport (.inr ⟨ht, rfl⟩)
  cases hw : decode w with
  | ok i => exact absurd ((decode_ok_iff w).mp ⟨i, hw⟩) hreserved
  | error e => exact hrefused e hw

theorem decode_of_decodeTableWord {nbits w : Nat} {i : Instr} (h : decodeTableWord nbits w = some i) :
    decode (BitVec.ofNat 16 w) = .ok i := by
  unfold decodeTableWord at h
  split at h
  · split at h
    · next hw => cases h; exact hw
    · cases h
  · cases h

/-- Settles O50: the placed word is at the port with the main context's turn next. -/
theorem placedWordIsRunNext : Obligations.PlacedWordIsRunNext := by
  intro s nbits w i hi
  obtain ⟨hrun, -⟩ := stepRunsTheDecodedWord (s.withFetchWord nbits w) _ s.port s.turns rfl rfl (.inl rfl)
  exact hrun i (decode_of_decodeTableWord hi)

end Sys2Proof.Machine
end

section
/-! SUPPORT. The bytes the block computes (30_encoding.md R50, R54, R55): the font index of a character and the two
bytes of a frame. -/

namespace Sys2Proof.Machine

open Sys2Proof

/-! The font index, class by class (R50). -/

/-- The classes as ranges of numbers. -/
theorem fontIndex_eq (ch : Byte) :
    fontIndex ch =
      if 0x20 ≤ ch.toNat ∧ ch.toNat ≤ 0x60 then ch - 0x20#8
      else if 0x61 ≤ ch.toNat ∧ ch.toNat ≤ 0x7A then ch - 0x40#8
      else 0x00#8 := rfl

theorem fontIndex_direct {ch : Byte} (h : 0x20 ≤ ch.toNat ∧ ch.toNat ≤ 0x60) :
    (fontIndex ch).toNat = ch.toNat - 0x20 := by
  rw [fontIndex_eq, if_pos h]
  exact BitVec.toNat_sub_of_le h.1

theorem fontIndex_lowercase {ch : Byte} (h : 0x61 ≤ ch.toNat ∧ ch.toNat ≤ 0x7A) :
    (fontIndex ch).toNat = ch.toNat - 0x40 := by
  have hbase : 0x40#8 ≤ ch := Nat.le_trans (by decide : 0x40 ≤ 0x61) h.1
  rw [fontIndex_eq, if_neg (by omega), if_pos h]
  exact BitVec.toNat_sub_of_le hbase

theorem fontIndex_other {ch : Byte} (h : ch.toNat ≤ 0x1F ∨ 0x7B ≤ ch.toNat) : fontIndex ch = 0x00#8 := by
  rw [fontIndex_eq, if_neg (by omega), if_neg (by omega)]

/-- Settles O10: the index of each class, and the ranges as numbers. -/
theorem characterClassesGiveTheIndex : Obligations.CharacterClassesGiveTheIndex := by
  intro ch
  refine ⟨fun hdirect => ?_, fun hlower => ?_, fontIndex_other, by omega, by omega, by omega, by omega⟩
  · rw [fontIndex_direct hdirect]
    omega
  · rw [fontIndex_lowercase hlower]
    omega

/-! The two bytes of a frame (R54, R55). -/

theorem digitSelect_getLsbD (mask : Byte) (p : Position) (j : Nat) :
    (digitSelect mask p).getLsbD j = (mask ^^^ 0x7F#8).getLsbD (p.toNat + j) :=
  BitVec.getLsbD_ushiftRight _ _ _

theorem digitSelect_anode_oneHot (p : Position) (j : Nat) :
    (digitSelect 0xFF#8 p).getLsbD j = decide (j = 7 - p.toNat) := by
  have hbit : (0xFF#8 ^^^ 0x7F#8 : Byte) = BitVec.twoPow 8 7 := by decide
  rw [digitSelect_getLsbD, hbit, BitVec.getLsbD_twoPow, Bool.eq_iff_iff]
  simp only [Bool.and_eq_true, decide_eq_true_eq]
  omega

theorem digitSelect_cathode_low (p : Position) (j : Nat) :
    (digitSelect 0x00#8 p).getLsbD j = decide (j < 7 - p.toNat) := by
  have hbits : (0x00#8 ^^^ 0x7F#8 : Byte) = (BitVec.allOnes 7).setWidth 8 := by decide
  rw [digitSelect_getLsbD, hbits, BitVec.getLsbD_setWidth, BitVec.getLsbD_allOnes, Bool.eq_iff_iff]
  simp only [Bool.and_eq_true, decide_eq_true_eq]
  omega

/-- Settles O28: the eight values computed, and the bits of the two shifted constants. -/
theorem digitSelectByte : Obligations.DigitSelectByte :=
  ⟨fun _ _ => rfl, by decide, by decide, by decide, by decide, by decide, by decide, by decide, by decide,
    fun p j => ⟨digitSelect_anode_oneHot p j, digitSelect_cathode_low p j⟩⟩

theorem segmentByte_anode (x : Byte) : segmentByte 0xFF#8 x = ~~~x := BitVec.allOnes_xor

theorem segmentByte_cathode (x : Byte) : segmentByte 0x00#8 x = x := BitVec.zero_xor

/-- Settles O29: anode complements the pattern, cathode keeps it. -/
theorem segmentByte_whole : Obligations.SegmentByte := by
  refine ⟨fun _ _ => rfl, fun x => ⟨?_, segmentByte_cathode x⟩, by decide, by decide⟩
  rw [segmentByte_anode, BitVec.toNat_not]

end Sys2Proof.Machine
end

section
/-! SUPPORT. Slot writes with no TICK among them: as actions of one operation or as SETCHAR words at the port, one after
the other, they leave the same buffer (30_encoding.md R59). -/

namespace Sys2Proof.Machine

open Sys2Proof

/-- The slot write of SETCHAR p, ch (R59, R103). -/
def setcharAction (x : Position × Byte) : Action := .store x.1 (fontIndex x.2)

/-- The command that is the word of SETCHAR p, ch (R61). -/
def setcharCommand (x : Position × Byte) : Command := .word (setcharWord x.1 x.2)

theorem exec_setchar (s : State) (p : Position) (ch : Byte) (hm : s.mode = .running) :
    exec (.setchar p.toNat ch) s = .next (s.setSlot p (fontIndex ch)) := by
  simp [exec, execSetchar, State.whenRunning_running s hm]

theorem exec_setstring (s : State) (a b c d : Byte) (more : List Byte) (hm : s.mode = .running) :
    exec (.setstring (a :: b :: c :: d :: more)) s = .next (s.issue (windowActions a b c d)) := by
  simp [exec, execSetstring, State.whenRunning_running s hm, setstringActions_some]

/-- With no turns left, an operation of slot writes is done in as many steps as it has writes. -/
theorem run_setcharActions (xs : List (Position × Byte)) (s : State) (ht : s.turns = [])
    (hp : s.pending = xs.map setcharAction) :
    run xs.length s = .next { s with buf := applyStores s.buf (xs.map setcharAction), pending := [] } := by
  induction xs generalizing s with
  | nil =>
    have hs : s = { s with pending := [] } := by rw [← show s.pending = [] from hp]
    exact congrArg _ hs
  | cons x xs ih =>
    have hstep := (step_no_turns s ht).trans (mainStep_act s (setcharAction x) (xs.map setcharAction) hp)
    exact (run_succ_of_next xs.length hstep).trans (ih _ ht rfl)

/-- With no turns left, SETCHAR words at the port are done in as many steps as there are words. -/
theorem run_setcharCommands (xs : List (Position × Byte)) (s : State) (cs : List Command) (hm : s.mode = .running)
    (ht : s.turns = []) (hp : s.pending = []) (hport : s.port = xs.map setcharCommand ++ cs) :
    run xs.length s = .next { s with buf := applyStores s.buf (xs.map setcharAction), port := cs } := by
  induction xs generalizing s with
  | nil =>
    have hs : s = { s with port := cs } := by rw [← show s.port = cs from hport]
    exact congrArg _ hs
  | cons x xs ih =>
    obtain ⟨p, ch⟩ := x
    have hop : (setcharCommand (p, ch)).operation = .ok (.setchar p.toNat ch) :=
      Command.operation_word _ _ (Laws.WordDecodes.setchar _ _ _ (encode_setchar p ch))
    have hstep : step s = .next (State.setSlot { s with port := xs.map setcharCommand ++ cs } p (fontIndex ch)) := by
      rw [step_no_turns s ht, mainStep_issue s _ _ _ hp hport hop]
      exact exec_setchar _ p ch hm
    exact (run_succ_of_next xs.length hstep).trans (ih _ hm ht hp rfl)

/-- The four SETCHARs of SETSTRING (R110). -/
def windowChars (a b c d : Byte) : List (Position × Byte) := [(3, a), (2, b), (1, c), (0, d)]

theorem windowActions_eq_map (a b c d : Byte) : windowActions a b c d = (windowChars a b c d).map setcharAction := rfl

theorem setstringWords_eq (a b c d : Byte) (more : List Byte) :
    setstringWords (a :: b :: c :: d :: more) =
      some [setcharWord 3 a, setcharWord 2 b, setcharWord 1 c, setcharWord 0 d] := rfl

/-- The four writes of a window overwrite the whole buffer, back to front (R110, R111). -/
theorem applyStores_windowActions (buf : Vector Byte 4) (a b c d : Byte) :
    applyStores buf (windowActions a b c d) = #v[fontIndex d, fontIndex c, fontIndex b, fontIndex a] := by
  ext i hi
  interval_cases i <;> simp [applyStores, windowActions]

/-- A SETSTRING at the port is done in one step for the issue and four for its writes. -/
theorem run_setstringCall (s : State) (a b c d : Byte) (more : List Byte) (cs : List Command)
    (hm : s.mode = .running) (ht : s.turns = []) (hp : s.pending = [])
    (hport : s.port = .call (.setstring (a :: b :: c :: d :: more)) :: cs) :
    run 5 s = .next { s with buf := applyStores s.buf (windowActions a b c d), port := cs } := by
  have hissue : step s = .next (State.issue { s with port := cs } (windowActions a b c d)) := by
    rw [step_no_turns s ht, mainStep_issue s _ cs _ hp hport rfl]
    exact exec_setstring _ a b c d more hm
  have hwrites := run_setcharActions (windowChars a b c d)
    (State.issue { s with port := cs } (windowActions a b c d)) ht (by simp [hp, windowActions_eq_map])
  rw [run_succ_of_next 4 hissue]
  refine hwrites.trans ?_
  rw [← hp]
  rfl

/-- Settles O17: both runs leave the buffer the window's writes leave, and the port behind them. -/
theorem setstringIsItsFourSetcharWords : Obligations.SetstringIsItsFourSetcharWords := by
  intro s a b c d more cs hm hp ht
  refine ⟨_, _, _, _, _, setstringWords_eq a b c d more, ?_, ?_, rfl⟩
  · rw [← applyStores_windowActions s.buf a b c d]
    exact run_setstringCall { s with port := _ } a b c d more cs hm ht hp rfl
  · rw [← applyStores_windowActions s.buf a b c d]
    exact run_setcharCommands (windowChars a b c d) { s with port := _ } cs hm ht hp rfl

end Sys2Proof.Machine
end

section
/-! SUPPORT. The font (40_font_rom.md R67, R71, R72): LOOKUP reads each of its entries by a code of its own, a byte that
stands there twice is read by two codes, and no step of any agent writes it. -/

namespace Sys2Proof.Machine

open Sys2Proof

/-! LOOKUP. -/

/-- In its range a code selects the entry `code - 0x20` of the font (R67), in either mode (log 15). -/
theorem exec_lookup (s : State) {code : Byte} (hlo : 0x20 ≤ code.toNat) (hhi : code.toNat ≤ 0x60) :
    exec (.lookup code) s = .next (s.recordLookup (s.font[code.toNat - 0x20]'(by omega))) := by
  have hindex : lookupIndex code = some (code - 0x20#8) := if_pos ⟨hlo, hhi⟩
  have hentry : (code - 0x20#8).toNat = code.toNat - 0x20 := BitVec.toNat_sub_of_le hlo
  have hfont := State.fontAt_of_le s (code - 0x20#8) (by omega)
  simp only [exec, execLookup, hindex, hfont, hentry]

/-- Settles O23: the general clause, and its instances at both ends of the range and at the digit 0. -/
theorem lookupReadsTheFont : Obligations.LookupReadsTheFont := by
  intro s code
  refine ⟨fun hlo hhi => exec_lookup s hlo hhi, ?_, exec_lookup s (by decide) (by decide), ?_⟩
  · rintro ⟨hblank, -, -, -⟩
    rw [← hblank]
    exact exec_lookup s (by decide) (by decide)
  · rintro ⟨-, hzero, -, -⟩
    rw [← hzero]
    exact exec_lookup s (by decide) (by decide)

/-! A byte that stands twice in the font. -/

/-- The code that selects entry `i` of the font (R67). -/
def lookupCode (i : Fin 65) : Byte := BitVec.ofNat 8 (i + 0x20)

theorem lookupCode_toNat (i : Fin 65) : (lookupCode i).toNat = i + 0x20 :=
  (BitVec.toNat_ofNat _ 8).trans (Nat.mod_eq_of_lt (by omega))

theorem lookupCode_injective : Function.Injective lookupCode := by
  intro i j h
  have hnat := congrArg BitVec.toNat h
  rw [lookupCode_toNat, lookupCode_toNat] at hnat
  omega

theorem exec_lookupCode (s : State) (i : Fin 65) :
    exec (.lookup (lookupCode i)) s = .next (s.recordLookup s.font[i]) := by
  have hcode := lookupCode_toNat i
  simpa [hcode] using exec_lookup s (code := lookupCode i) (by omega) (by omega)

/-- A byte counted twice stands at two different entries. -/
theorem exists_entries_of_two_le_count {f : Vector Byte 65} {v : Byte} (h : 2 ≤ f.toList.count v) :
    ∃ i j : Fin 65, i ≠ j ∧ f[i] = v ∧ f[j] = v := by
  obtain ⟨i, j, hlt, hi, hj⟩ :=
    List.duplicate_iff_exists_distinct_get.mp (List.duplicate_iff_two_le_count.mpr h)
  refine ⟨i.cast (by simp), j.cast (by simp), ?_, ?_, ?_⟩
  · simpa using hlt.ne
  · simpa using hi.symm
  · simpa using hj.symm

theorem exists_codes_of_two_le_count {s : State} {v : Byte} (h : 2 ≤ s.font.toList.count v) :
    ∃ c c' : Byte, c ≠ c' ∧ exec (.lookup c) s = .next (s.recordLookup v) ∧
      exec (.lookup c') s = .next (s.recordLookup v) := by
  obtain ⟨i, j, hne, hi, hj⟩ := exists_entries_of_two_le_count h
  refine ⟨lookupCode i, lookupCode j, lookupCode_injective.ne hne, ?_, ?_⟩
  · rw [exec_lookupCode, hi]
  · rw [exec_lookupCode, hj]

/-- Settles O25: 0x92 and 0x38 each stand twice in a legal font. -/
theorem fontIsNotOneToOne : Obligations.FontIsNotOneToOne := by
  intro s hs
  obtain ⟨-, -, h92, h38⟩ := hs.font
  obtain ⟨c1, c2, h12, hc1, hc2⟩ := exists_codes_of_two_le_count h92
  obtain ⟨c3, c4, h34, hc3, hc4⟩ := exists_codes_of_two_le_count h38
  exact ⟨c1, c2, c3, c4, h12, h34, hc1, hc2, hc3, hc4⟩

/-! No step writes the font. -/

/-- No operation writes the font (R72). -/
theorem exec_font {i : Instr} {s t : State} (h : exec i s = .next t) : t.font = s.font := by
  cases i with
  | configure l c d anode =>
    obtain ⟨-, -, rfl⟩ := execConfigure_next h
    rfl
  | setchar p ch =>
    obtain ⟨-, q, -, rfl⟩ := execSetchar_next h
    exact State.setSlot_font s q _
  | clear =>
    obtain ⟨-, rfl⟩ := execClear_next h
    exact State.issue_font s _
  | tick =>
    obtain ⟨-, x, -, rfl⟩ := execTick_next h
    exact State.refresh_font s x
  | setstring text =>
    obtain ⟨-, as, -, rfl⟩ := execSetstring_next h
    exact State.issue_font s as
  | scroll text delay stride =>
    obtain ⟨-, -, -, rfl⟩ := execScroll_next h
    exact State.issue_font s _
  | lookup code =>
    obtain ⟨j, x, -, -, rfl⟩ := execLookup_next h
    exact State.recordLookup_font s x
  | render x p =>
    obtain ⟨-, q, -, rfl⟩ := execRender_next h
    exact State.sendFrame_font s x q
  | shiftout d c v =>
    obtain ⟨-, rfl⟩ := execShiftout_next h
    exact State.shiftOut_font s d c v

theorem mainStep_font {s t : State} (h : mainStep s = .next t) : t.font = s.font := by
  rcases mainStep_cases h with ⟨a, rest, -, rfl⟩ | ⟨c, cs, i, -, -, -, hi⟩ | ⟨-, -, -, ht⟩ | ⟨-, -, -, rfl⟩
  · exact State.perform_font { s with pending := rest } a
  · exact exec_font (s := { s with port := cs }) hi
  · exact exec_font (i := .tick) ht
  · rfl

theorem timerStep_font {s t : State} (h : timerStep s = .next t) : t.font = s.font := by
  rcases timerStep_cases h with ⟨-, ht⟩ | ⟨-, rfl⟩
  · exact exec_font (i := .tick) ht
  · rfl

/-- Settles O24, by the agent whose turn it is; a reset hands the font on (R72, R141). -/
theorem fontNeverChanges : Obligations.FontNeverChanges := by
  intro s t h
  rcases step_cases h with ⟨ts, -, hm⟩ | ⟨ts, -, ht⟩ | ⟨ts, -, rfl⟩
  · exact mainStep_font (s := { s with turns := ts }) hm
  · exact timerStep_font (s := { s with turns := ts }) ht
  · exact State.resetInput_font { s with turns := ts }

end Sys2Proof.Machine
end

section
/-! SUPPORT. CONFIGURE and what comes before it (41_configure.md R74 to R81): its two refusals beside the state it
boots, the pins it sees of its operands, and the refusal of the operations a block that is not configured cannot run. -/

namespace Sys2Proof.Machine

open Sys2Proof

/-- Settles O5: each of the seven operations stands behind the guard on MODE (R78, R101, R142). -/
theorem operationsBeforeConfigureAreRefused : Obligations.OperationsBeforeConfigureAreRefused := by
  intro s hm
  have guarded := State.whenRunning_unconfigured s hm
  exact ⟨fun _ _ => guarded _ _, guarded _ _, fun _ => guarded _ _, fun _ _ _ => guarded _ _, fun _ _ => guarded _ _,
    fun _ _ _ => guarded _ _, guarded _ _⟩

/-! The two refusals (R78, R79). -/

theorem execConfigure_running (l c d : PinOperand) (anode : Bool) {s : State} (hm : s.mode = .running) :
    execConfigure l c d anode s = .refused .configureTwice :=
  if_pos ((State.isRunning_iff s).mpr hm)

/-- An unconfigured block refuses pins of which two are one (R79). -/
theorem execConfigure_pinsNotDistinct (l c d : PinOperand) (anode : Bool) {s : State} (hm : s.mode = .unconfigured)
    (hp : pinValue l = pinValue c ∨ pinValue l = pinValue d ∨ pinValue c = pinValue d) :
    execConfigure l c d anode s = .refused .pinsNotDistinct := by
  have hd : ¬ pinsDistinct l c d = true := by
    rw [pinsDistinct_iff]
    tauto
  simp [execConfigure, State.isRunning, hm, hd]

/-! The operands count by the pins they name (R61). -/

@[simp] theorem pinValue_pin (p : PinId) : pinValue (.pin p) = p := rfl

theorem pinsDistinct_pinValue (l c d : PinOperand) :
    pinsDistinct (.pin (pinValue l)) (.pin (pinValue c)) (.pin (pinValue d)) = pinsDistinct l c d := by
  rw [Bool.eq_iff_iff, pinsDistinct_iff, pinsDistinct_iff]
  simp only [pinValue_pin]

theorem execConfigure_pinValue (l c d : PinOperand) (anode : Bool) (s : State) :
    execConfigure (.pin (pinValue l)) (.pin (pinValue c)) (.pin (pinValue d)) anode s =
      execConfigure l c d anode s := by
  simp only [execConfigure, pinsDistinct_pinValue, pinValue_pin]

/-- Settles O6: each clause is one rule of CONFIGURE; the levels are PIN_IDLE's (R26), and the parameters of a word are
distinct (R61, R79). -/
theorem configureBootsTheBlock : Obligations.ConfigureBootsTheBlock := by
  intro s l c d anode
  refine ⟨?twice, ?onePin, ?boots, ?operands, ?word, rfl⟩
  case twice => exact execConfigure_running (.pin l) (.pin c) (.pin d) anode
  case onePin => exact execConfigure_pinsNotDistinct (.pin l) (.pin c) (.pin d) anode
  case boots =>
    intro hm hlc hld hcd
    exact ⟨Config.pinIdle s.resets, execConfigure_eq (.pin l) (.pin c) (.pin d) anode s hm ⟨hlc, hld, hcd⟩⟩
  case operands => exact fun l c d => (execConfigure_pinValue l c d anode s).symm
  case word =>
    intro hm
    exact ⟨_, execConfigure_eq .latchPin .clockPin .dataPin anode s hm Config.wordPins.distinct⟩

end Sys2Proof.Machine
end

section
/-! SUPPORT. The wire writer (42_wire_writer.md R82 to R87): what RENDER and SHIFTOUT leave unchanged, the order in
which a byte travels, and the chain after one byte and after a frame whose first bit is lost to a clock left high. -/

namespace Sys2Proof.Machine

open Sys2Proof

/-! RENDER and SHIFTOUT, whole: the events, and nothing else but the lines and the chain. -/

theorem exec_shiftout (s : State) (d c : PinId) (v : Byte) (hm : s.mode = .running) :
    exec (.shiftout d c v) s = .next (s.shiftOut d c v) :=
  State.whenRunning_running s hm _ _

theorem State.sendFrame_eq (s : State) (x : Byte) (p : Position) :
    s.sendFrame x p =
      { s with
        lines := (s.sendFrame x p).lines, chain := (s.sendFrame x p).chain,
        out := s.out ++ frameEvents s.cfg (digitSelect s.cfg.mask p) (segmentByte s.cfg.mask x) } := by
  apply State.ext_fields <;> simp

/-- Settles O26: a number below 4 is a position, and the frame has only its events and the wire to change. -/
theorem renderSendsOneFrame : Obligations.RenderSendsOneFrame := by
  intro s x p hm hp
  obtain ⟨q, rfl⟩ : ∃ q : Position, q.toNat = p := ⟨BitVec.ofNat 2 p, Nat.mod_eq_of_lt hp⟩
  exact ⟨_, _, (exec_render s x q hm).trans (congrArg _ (State.sendFrame_eq s x q))⟩

theorem lsbFirst_eq_map_range (v : Byte) : lsbFirst v = (List.range 8).map v.getLsbD := rfl

/-- Settles O34: SHIFTOUT is the emission of its one event; the order is the definition's, bit by bit. -/
theorem shiftoutRecordsItsByte : Obligations.ShiftoutRecordsItsByte :=
  ⟨fun s d c v hm => ⟨_, _, (exec_shiftout s d c v hm).trans (congrArg _ (State.emit_eq s (.shift d c v)))⟩,
    lsbFirst_eq_map_range, by decide⟩

/-! One byte with the clock at rest (R44, R87). -/

theorem Event.pinWrites_shift (d c : PinId) (v : Byte) : (Event.shift d c v).pinWrites =
    (List.range 8).flatMap fun i => [(d, v.getLsbD i), (c, true), (c, false)] := by
  simp only [Event.pinWrites, lsbFirst_eq_map_range, List.flatMap_map, bitWrites]

/-- A byte fills the nearer eight stages, its bit 0 the farthest of them. -/
theorem Chain.shiftBits_lsbFirst_near (c : Chain) (v : Byte) (i : Fin 8) :
    (c.shiftBits (lsbFirst v)).sr.getLsbD (7 - i) = v.getLsbD i := by
  have hmirror : 8 - 1 - (7 - i.val) = i.val := by omega
  rw [Chain.shiftBits_getLsbD _ _ _ (by simp; omega) (by omega), getElem_lsbFirst, length_lsbFirst, hmirror]

/-- What stood in the nearer eight stages moves to the farther eight. -/
theorem Chain.shiftBits_lsbFirst_far (c : Chain) (v : Byte) (i : Fin 8) :
    (c.shiftBits (lsbFirst v)).sr.getLsbD (8 + i) = c.sr.getLsbD i := by
  rw [Chain.shiftBits_getLsbD_old _ _ _ (by simp) (by omega), length_lsbFirst, Nat.add_sub_cancel_left]

/-- Settles O35: the writes of the eight bits, and the chain shifted by them. -/
theorem shiftClocksEightBitsLsbFirst : Obligations.ShiftClocksEightBitsLsbFirst := by
  refine ⟨Event.pinWrites_shift, fun s v lv hm hlc hld hcd hl hc => ?_⟩
  have hshift := State.shiftOut_own s s.cfg rfl ⟨hlc, hld, hcd⟩ lv hl hc v
  exact ⟨_, (exec_shiftout s _ _ v hm).trans (congrArg _ hshift), rfl,
    fun i => ⟨Chain.shiftBits_lsbFirst_near s.chain v i, Chain.shiftBits_lsbFirst_far s.chain v i⟩⟩

/-! A frame whose clock was high before it: 15 shifts, the first bit of the digit-select byte lost (R87). -/

/-- A byte sent with the clock high loses its bit 0; the clock rests after it. -/
theorem State.shiftOut_own_high (s : State) (cfg : DisplayConfig) (hs : s.cfg = cfg) (h : cfg.Distinct) (lv : Levels)
    (hl : s.lines = some lv) (hc : lv.sclk = true) (v : Byte) :
    s.shiftOut cfg.data cfg.clock v =
      { s with lines := some { lv with sclk := false, sdata := v.getLsbD 7 },
               chain := s.chain.shiftBits (lsbFirst v).tail,
               out := s.out ++ [.shift cfg.data cfg.clock v] } := by
  subst hs
  have hwire : ((lsbFirst v).flatMap (bitWrites s.cfg.data s.cfg.clock)).foldl (wireStep s.cfg) (lv, s.chain) =
      ({ lv with sclk := false, sdata := v.getLsbD 7 }, s.chain.shiftBits (lsbFirst v).tail) := by
    rw [lsbFirst, List.flatMap_cons, List.foldl_append, bitWrites_wire_high s.cfg h lv hc, bits_wire s.cfg h _ _ rfl]
    rfl
  rw [State.shiftOut, State.emit_wire s _ lv hl]
  simp only [Event.pinWrites, hwire]

/-- The second half of a frame, with the clock at rest: a byte, and the latch's rise, at which the outputs take the
stages. -/
theorem State.byteThenLatch_q (t : State) (cfg : DisplayConfig) (ht : t.cfg = cfg) (h : cfg.Distinct) (lv : Levels)
    (hl : t.lines = some lv) (hlatch : lv.latch = false) (hc : lv.sclk = false) (v : Byte) :
    ((t.shiftOut cfg.data cfg.clock v).emit (.write cfg.latch true)).chain.q =
      (t.chain.shiftBits (lsbFirst v)).sr := by
  have hshift := State.shiftOut_own t cfg ht h lv hl hc v
  have hrise := State.latchHigh (t.shiftOut cfg.data cfg.clock v) cfg (by simpa using ht) h
    { lv with sclk := false, sdata := v.getLsbD 7 } (by rw [hshift]) hlatch rfl
  rw [hrise, hshift]

theorem Chain.shiftBits_append (c : Chain) (bs bs' : List Bool) :
    c.shiftBits (bs ++ bs') = (c.shiftBits bs).shiftBits bs' :=
  List.foldl_append

theorem State.sendFrame_q_of_clock_high (s : State) (x : Byte) (p : Position) (h : s.cfg.Distinct) (lv : Levels)
    (hl : s.lines = some lv) (hc : lv.sclk = true) :
    (s.sendFrame x p).chain.q = (s.chain.shiftBits
      ((lsbFirst (digitSelect s.cfg.mask p)).tail ++ lsbFirst (segmentByte s.cfg.mask x))).sr := by
  have hlow := State.latchLow s h lv hl
  have hfirst := State.shiftOut_own_high (s.emit (.write s.cfg.latch false)) s.cfg (State.emit_cfg _ _) h
    { lv with latch := false } (by rw [hlow]) hc (digitSelect s.cfg.mask p)
  have hrest := State.byteThenLatch_q
    ((s.emit (.write s.cfg.latch false)).shiftOut s.cfg.data s.cfg.clock (digitSelect s.cfg.mask p)) s.cfg (by simp) h _
    (by rw [hfirst]) rfl rfl (segmentByte s.cfg.mask x)
  rw [State.sendFrame, hrest, hfirst, hlow, Chain.shiftBits_append]

/-- The stages that the last bits reach do not depend on the bits before them. -/
theorem Chain.shiftBits_append_getLsbD (c : Chain) (bs bs' : List Bool) {k : Nat} (hk : k < bs'.length)
    (hk' : k < 16) : (c.shiftBits (bs ++ bs')).sr.getLsbD k = (c.shiftBits bs').sr.getLsbD k := by
  rw [Chain.shiftBits_append, Chain.shiftBits_getLsbD _ _ k hk hk', Chain.shiftBits_getLsbD _ _ k hk hk']

/-- Two bytes without their first bit fill all stages but the farthest as the two bytes whole do. -/
theorem Chain.shiftBits_firstBitLost (c : Chain) (far near : Byte) {k : Nat} (hk : k < 15) :
    (c.shiftBits ((lsbFirst far).tail ++ lsbFirst near)).sr.getLsbD k = (frameOutputs far near).getLsbD k := by
  have hwhole : [far.getLsbD 0] ++ ((lsbFirst far).tail ++ lsbFirst near) = lsbFirst far ++ lsbFirst near := rfl
  rw [← Chain.shiftBits_twoBytes c far near, ← hwhole]
  exact (Chain.shiftBits_append_getLsbD c _ _ (by simpa using hk) (by omega)).symm

/-- Without the first bit of two bytes the farthest stage gets what the nearest held. -/
theorem Chain.shiftBits_firstBitLost_farthest (c : Chain) (far near : Byte) :
    (c.shiftBits ((lsbFirst far).tail ++ lsbFirst near)).sr.getLsbD 15 = c.sr.getLsbD 0 :=
  Chain.shiftBits_getLsbD_old ((lsbFirst far).tail ++ lsbFirst near) c 15 (by simp) (by decide)

/-- Settles O31: 15 bits reach the chain, so the farthest output comes from the nearest stage and the others are the
frame's. -/
theorem clockHighLosesTheFirstBit : Obligations.ClockHighLosesTheFirstBit := by
  intro s x p lv hm hlc hld hcd hl hc
  refine ⟨s.sendFrame x p, exec_render s x p hm, ?_⟩
  rw [State.sendFrame_q_of_clock_high s x p ⟨hlc, hld, hcd⟩ lv hl hc]
  refine ⟨Chain.shiftBits_firstBitLost_farthest _ _ _, fun i hi => ?far, fun i => ?near⟩
  case far => exact (Chain.shiftBits_firstBitLost _ _ _ (by omega)).trans (frameOutputs_getLsbD_far _ _ i)
  case near => exact (Chain.shiftBits_firstBitLost _ _ _ (by omega)).trans (frameOutputs_getLsbD_near _ _ i)

end Sys2Proof.Machine
end

section
/-! SUPPORT. The refresh (43_refresh_scheduler.md R95 to R102): one TICK whole and in its parts, a run of TICKs, a slot
written in the midst of it, and the call of TICK, which the host may not make. -/

namespace Sys2Proof.Machine

open Sys2Proof

/-! The host's call of an operation (R61, R95; log 10). -/

/-- Settles O49: the turn issues a call the host may make and refuses the others, constructor by constructor. -/
theorem stepRunsTheHostsCall : Obligations.StepRunsTheHostsCall := by
  intro s i cs ts hp hport hturn
  have hissued (hop : (Command.call i).operation = .ok i) : step s = exec i { s with port := cs, turns := ts } :=
    (step_mainTurn s ts hturn).trans (mainStep_issue { s with turns := ts } _ cs i hp hport hop)
  have hrefused (hop : (Command.call i).operation = .error .notHostCallable) : step s = .refused .notHostCallable :=
    (step_mainTurn s ts hturn).trans (mainStep_bad { s with turns := ts } _ cs _ hp hport hop)
  cases i with
  | configure _ _ _ _ | setchar _ _ | clear | setstring _ | scroll _ _ _ => exact hissued rfl
  | tick | lookup _ | render _ _ | shiftout _ _ _ => exact hrefused rfl

/-! One TICK. -/

/-- The body of TICK changes the cursor, the record of the LOOKUP, the wire and the trace. -/
theorem State.refresh_eq (s : State) (x : Byte) :
    s.refresh x =
      { s with
        cur := s.cur + 1, lookedUp := some x, lines := (s.refresh x).lines, chain := (s.refresh x).chain,
        out := s.out ++ frameEvents s.cfg (digitSelect s.cfg.mask s.cur) (segmentByte s.cfg.mask x) } := by
  apply State.ext_fields <;> simp

/-- The body of TICK is a LOOKUP's record, a RENDER's frame and the cursor's advance (R95). -/
theorem State.refresh_eq_sendFrame (s : State) (x : Byte) :
    s.refresh x = { (s.recordLookup x).sendFrame x s.cur with cur := s.cur + 1 } := by
  have hcur : ((s.recordLookup x).sendFrame x s.cur).cur = s.cur := by simp
  rw [State.refresh, State.advanceCursor, hcur]

/-- The cursor's two bits count modulo 4 (R97). -/
theorem cursor_succ (c : Position) : c + 1 = BitVec.ofNat 2 ((c.toNat + 1) % 4) :=
  BitVec.eq_of_toNat_eq (by rw [BitVec.toNat_add, BitVec.toNat_ofNat, Nat.mod_mod]; rfl)

/-- Settles O36: the guard before CONFIGURE, and TICK's body on the byte the slot selects. -/
theorem tickRendersTheSlotAtTheCursor : Obligations.TickRendersTheSlotAtTheCursor := by
  refine fun s => ⟨fun hm => State.whenRunning_unconfigured s hm _ _, fun hm hslot => ?_⟩
  rw [← cursor_succ]
  exact ⟨_, _, (execTick_completes s hm hslot).trans (congrArg _ (State.refresh_eq s _))⟩

/-- The code `i + 0x20` selects the font's entry i (R96). -/
theorem toNat_add_fontBase {i : Byte} (h : i.toNat ≤ 64) : (i + 0x20#8).toNat = i.toNat + 0x20 := by
  rw [BitVec.toNat_add, BitVec.toNat_ofNat]
  omega

/-- Settles O37: LOOKUP and TICK read one entry of the font, RENDER sends it. -/
theorem tickIsLookupThenRenderThenAdvance : Obligations.TickIsLookupThenRenderThenAdvance := by
  intro s hs hm
  have hslot := hs.slots hm s.cur
  have hcode := toNat_add_fontBase hslot
  have hlookup := exec_lookup s (code := s.slot s.cur + 0x20#8) (by omega) (by omega)
  simp only [hcode, Nat.add_sub_cancel] at hlookup
  exact ⟨_, _, _, hlookup, rfl, exec_render _ _ s.cur hm,
    (execTick_completes s hm hslot).trans (congrArg _ (State.refresh_eq_sendFrame s _))⟩

/-! Runs of the machine. -/

theorem run_succ_next {k : Nat} {s t : State} (h : run (k + 1) s = .next t) :
    ∃ u, step s = .next u ∧ run k u = .next t := by
  cases hstep : step s with
  | next u => exact ⟨u, rfl, (run_succ_of_next k hstep).symm.trans h⟩
  | fault r => cases r
  | refused r => simp [run, Host.Core.run, Sys2Proof.core, hstep] at h

/-- A run that completed is continued from where it ended. -/
theorem run_add_of_next {j : Nat} {s t : State} (k : Nat) (h : run j s = .next t) : run (j + k) s = run k t := by
  induction j generalizing s with
  | zero =>
    cases h
    rw [Nat.zero_add]
  | succ j ih =>
    obtain ⟨u, hstep, hrun⟩ := run_succ_next h
    rw [Nat.add_right_comm, run_succ_of_next (j + k) hstep, ih hrun]

/-- The invariant holds along every run from a state that has it. -/
theorem run_keeps_inv {k : Nat} {s t : State} (hs : s.Inv) (h : run k s = .next t) : t.Inv := by
  induction k generalizing s with
  | zero =>
    cases h
    exact hs
  | succ k ih =>
    obtain ⟨u, hstep, hrun⟩ := run_succ_next h
    exact ih (stepKeepsTheInvariant s u hs hstep) hrun

/-! A run of TICKs. -/

/-- The events of n frames, for the positions in turn from `cur` on, each with its pattern (R97, R99, R102). -/
def framesFrom (cfg : DisplayConfig) (pattern : Position → Byte) (cur : Position) (n : Nat) : List Event :=
  (List.range n).flatMap fun k =>
    frameEvents cfg (digitSelect cfg.mask (cur + BitVec.ofNat 2 k))
      (segmentByte cfg.mask (pattern (cur + BitVec.ofNat 2 k)))

/-- The positions after the first are those from the next cursor on. -/
theorem cursor_add_succ (c : Position) (k : Nat) : c + BitVec.ofNat 2 (k + 1) = c + 1 + BitVec.ofNat 2 k := by
  rw [Nat.add_comm k 1, BitVec.ofNat_add, BitVec.add_assoc]
  rfl

theorem framesFrom_succ (cfg : DisplayConfig) (pattern : Position → Byte) (cur : Position) (n : Nat) :
    framesFrom cfg pattern cur (n + 1) =
      frameEvents cfg (digitSelect cfg.mask cur) (segmentByte cfg.mask (pattern cur)) ++
        framesFrom cfg pattern (cur + 1) n := by
  simp only [framesFrom, List.range_succ_eq_map, List.flatMap_cons, List.flatMap_map, ← cursor_add_succ,
    Nat.succ_eq_add_one, BitVec.add_zero]

/-- While running every slot selects a byte of the font (R15, R96). -/
theorem State.Inv.fontAt_slot {s : State} (hs : s.Inv) (hm : s.mode = .running) (p : Position) :
    s.fontAt (s.slot p) = some (s.patternAt p) := by
  rw [State.patternAt, State.fontAt_of_le s _ (hs.slots hm p)]
  rfl

/-- The timer's turn of a running block is TICK's body on the pattern of the slot at the cursor. -/
theorem step_tick_patternAt {s : State} {ts : List Turn} (hs : s.Inv) (hm : s.mode = .running)
    (ht : s.turns = .tick :: ts) :
    step s = .next (State.refresh { s with turns := ts } (s.patternAt s.cur)) := by
  have hattached := hs.timerAttached hm
  rw [step_tick s ts ht]
  exact (if_pos hattached).trans (execTick_eq { s with turns := ts } hm _ (hs.fontAt_slot hm s.cur))

/-- The state n TICKs leave: the cursor moved by n, the frames of the positions visited sent, and `rest` the turns left;
what the wire and the record of the LOOKUP hold is given, and nothing else is changed. -/
def State.afterTicks (s : State) (n : Nat) (rest : List Turn) (lines : Option Levels) (chain : Chain)
    (seen : Option Byte) : State :=
  { s with
    cur := s.cur + BitVec.ofNat 2 n, turns := rest, lines := lines, chain := chain, lookedUp := seen,
    out := s.out ++ framesFrom s.cfg s.patternAt s.cur n }

theorem State.afterTicks_out (s : State) (n : Nat) (rest : List Turn) (lines : Option Levels) (chain : Chain)
    (seen : Option Byte) : (s.afterTicks n rest lines chain seen).out =
      s.out ++ framesFrom s.cfg s.patternAt s.cur n := rfl

/-- By induction on the TICKs, the first of which leaves a state of the invariant with the cursor moved by one. -/
theorem run_ticks (n : Nat) (s : State) (rest : List Turn) (hs : s.Inv) (hm : s.mode = .running)
    (ht : s.turns = List.replicate n .tick ++ rest) :
    ∃ lines chain seen, run n s = .next (s.afterTicks n rest lines chain seen) := by
  induction n generalizing s with
  | zero =>
    refine ⟨s.lines, s.chain, s.lookedUp, congrArg _ ?_⟩
    apply State.ext_fields <;> simp [State.afterTicks, framesFrom, show s.turns = rest from ht]
  | succ n ih =>
    have hstep := step_tick_patternAt hs hm ht
    rw [State.refresh_eq] at hstep
    obtain ⟨lines, chain, seen, hrun⟩ := ih _ (stepKeepsTheInvariant s _ hs hstep) hm rfl
    refine ⟨lines, chain, seen, (run_succ_of_next n hstep).trans (hrun.trans ?_)⟩
    rw [State.afterTicks, State.afterTicks, framesFrom_succ, cursor_add_succ, ← List.append_assoc]
    rfl

/-- Settles O38: the run of n TICKs, field by field. -/
theorem ticksVisitThePositionsInTurn : Obligations.TicksVisitThePositionsInTurn := by
  intro s n rest hs hm ht
  obtain ⟨lines, chain, seen, hrun⟩ := run_ticks n s rest hs hm ht
  exact ⟨_, hrun, rfl, rfl, rfl, rfl, rfl, rfl⟩

/-! A slot written in a run of TICKs (R41, R100). -/

theorem State.patternAt_setSlot (s : State) (p q : Position) (v : Byte) :
    (s.setSlot p v).patternAt q = if q = p then (s.fontAt v).getD 0 else s.patternAt q := by
  have hfont : (s.setSlot p v).fontAt = s.fontAt := rfl
  rw [State.patternAt, hfont, State.slot_setSlot]
  split <;> rfl

/-- The main context's turn with the word of a SETCHAR at the port is the slot write (R40, R103). -/
theorem step_setcharWord {s : State} {p : Position} {ch : Byte} {w : Word} {cs : List Command} {ts : List Turn}
    (hm : s.mode = .running) (hp : s.pending = []) (hw : decode w = .ok (.setchar p.toNat ch))
    (hport : s.port = .word w :: cs) (ht : s.turns = .main :: ts) :
    step s = .next (State.setSlot { s with port := cs, turns := ts } p (fontIndex ch)) := by
  obtain ⟨hrun, -⟩ := stepRunsTheDecodedWord s w cs ts hp hport (.inl ht)
  exact (hrun _ hw).trans (exec_setchar _ p ch hm)

/-- Settles O39: the TICKs before the word, the slot write, and the TICKs after it from where the first ended. -/
theorem slotWrittenBetweenVisitsShowsAtTheNext : Obligations.SlotWrittenBetweenVisitsShowsAtTheNext := by
  intro s p ch w before after cs rest hs hm hp hw hport ht
  obtain ⟨lines, chain, seen, hbefore⟩ := run_ticks before s _ hs hm ht
  have hinv := run_keeps_inv hs hbefore
  have hwrite := step_setcharWord
    (s := s.afterTicks before (.main :: (List.replicate after .tick ++ rest)) lines chain seen) hm hp hw hport rfl
  obtain ⟨lines', chain', seen', hafter⟩ := run_ticks after _ rest (stepKeepsTheInvariant _ _ hinv hwrite) hm rfl
  have hrun := calc run (before + 1 + after) s
    _ = run (before + (after + 1)) s := by rw [Nat.add_right_comm, Nat.add_assoc]
    _ = run (after + 1) _ := run_add_of_next (after + 1) hbefore
    _ = run after _ := run_succ_of_next after hwrite
    _ = .next _ := hafter
  refine ⟨_, hrun, ?_, rfl, rfl, rfl, ?_⟩
  · rw [BitVec.ofNat_add, ← BitVec.add_assoc]
    rfl
  · simp only [State.afterTicks_out, framesFrom, State.patternAt_setSlot, BitVec.ofNat_add, ← BitVec.add_assoc]
    rfl

end Sys2Proof.Machine
end

section
/-! SUPPORT. One character, and the operands outside their range (44_text_renderer.md R103 to R107; 42_wire_writer.md
R94; 40_font_rom.md R73). -/

namespace Sys2Proof.Machine

open Sys2Proof

/-! The refusals of the spec's decision D10. -/

theorem lookupIndex_none {code : Byte} (h : code.toNat < 0x20 ∨ 0x60 < code.toNat) : lookupIndex code = none := by
  refine if_neg fun ⟨hlo, hhi⟩ => ?_
  have hlo' : 0x20 ≤ code.toNat := hlo
  have hhi' : code.toNat ≤ 0x60 := hhi
  omega

theorem exec_lookup_outOfRange (s : State) {code : Byte} (h : code.toNat < 0x20 ∨ 0x60 < code.toNat) :
    exec (.lookup code) s = .refused .fontIndexOutOfRange := by
  simp only [exec, execLookup, lookupIndex_none h]

theorem exec_setchar_outOfRange (s : State) {p : Nat} (ch : Byte) (hm : s.mode = .running) (hp : 3 < p) :
    exec (.setchar p ch) s = .refused .positionOutOfRange := by
  simp only [exec, execSetchar, State.whenRunning_running s hm, (positionOperand_none p).mpr hp]

theorem exec_render_outOfRange (s : State) {p : Nat} (x : Byte) (hm : s.mode = .running) (hp : 3 < p) :
    exec (.render x p) s = .refused .positionOutOfRange := by
  simp only [exec, execRender, State.whenRunning_running s hm, (positionOperand_none p).mpr hp]

/-- Settles O27: one refusal per operation. -/
theorem outOfRangeOperandsAreRefused : Obligations.OutOfRangeOperandsAreRefused :=
  fun s x _ => ⟨exec_setchar_outOfRange s x, exec_render_outOfRange s x, exec_lookup_outOfRange s⟩

/-! SETCHAR. -/

theorem exec_setchar_of_lt (s : State) {p : Nat} (ch : Byte) (hm : s.mode = .running) (hp : p < 4) :
    exec (.setchar p ch) s = .next { s with buf := s.buf.set p (fontIndex ch) } := by
  obtain ⟨q, rfl⟩ : ∃ q : Position, q.toNat = p := ⟨BitVec.ofNat 2 p, Nat.mod_eq_of_lt hp⟩
  exact exec_setchar s q ch hm

/-- Settles O11: the guard on MODE, the range of the position, the write. -/
theorem setcharWritesOneSlot : Obligations.SetcharWritesOneSlot :=
  fun s _ ch => ⟨fun hm => State.whenRunning_unconfigured s hm _ _, exec_setchar_outOfRange s ch,
    exec_setchar_of_lt s ch, by decide⟩

/-! Lowercase letters (R50, R105). -/

theorem fontIndex_lowercase_eq_sub {ch : Byte} (h : 0x61 ≤ ch.toNat ∧ ch.toNat ≤ 0x7A) :
    fontIndex ch = ch - 0x40#8 := by
  rw [fontIndex_eq, if_neg (by omega), if_pos h]

/-- The code 0x20 below a lowercase letter is the uppercase letter, of the direct class. -/
theorem fontIndex_uppercase_eq_sub {ch : Byte} (h : 0x61 ≤ ch.toNat ∧ ch.toNat ≤ 0x7A) :
    fontIndex (ch - 0x20#8) = ch - 0x40#8 := by
  have hbase : 0x20#8 ≤ ch := Nat.le_trans (by decide : 0x20 ≤ 0x61) h.1
  have hupper : (ch - 0x20#8).toNat = ch.toNat - 0x20 := BitVec.toNat_sub_of_le hbase
  rw [fontIndex_eq, if_pos (by omega), BitVec.sub_sub]
  rfl

/-- Settles O12: a letter's two codes have one index. -/
theorem lowercaseStoresTheUppercaseIndex : Obligations.LowercaseStoresTheUppercaseIndex := by
  refine ⟨fun s p ch hlo hhi hm hp => ?_, by decide, by decide⟩
  rw [exec_setchar_of_lt s _ hm hp, exec_setchar_of_lt s _ hm hp, fontIndex_lowercase_eq_sub ⟨hlo, hhi⟩,
    fontIndex_uppercase_eq_sub ⟨hlo, hhi⟩]
  exact ⟨rfl, rfl⟩

end Sys2Proof.Machine
end

section
/-! SUPPORT. CLEAR and SETSTRING (44_text_renderer.md R108 to R113, R119): the actions each issues, the buffer they
leave in whatever order and with whatever TICKs among them, and what no text operation touches. -/

namespace Sys2Proof.Machine

open Sys2Proof

/-! The frame of the four operations. -/

/-- Settles O21: one slot write, or actions added to the main context's work. -/
theorem textOperationsTouchOnlyTheBuffer : Obligations.TextOperationsTouchOnlyTheBuffer := by
  rintro s t i (⟨p, ch, rfl⟩ | rfl | ⟨text, rfl⟩ | ⟨text, delay, stride, rfl⟩) h
  · obtain ⟨-, q, -, rfl⟩ := execSetchar_next h
    rfl
  · obtain ⟨-, rfl⟩ := execClear_next h
    rfl
  · obtain ⟨-, as, -, rfl⟩ := execSetstring_next h
    rfl
  · obtain ⟨-, -, -, rfl⟩ := execScroll_next h
    rfl

/-! An operation issued, its actions done under any schedule, and what actions one after the other do. -/

/-- The actions an operation issues are done before the work it found, whatever TICKs fall among them (R40 to R42). -/
theorem run_completes_issued {s : State} {i : Instr} {as : List Action} (hs : s.Inv) (hm : s.mode = .running)
    (hi : exec i s = .next (s.issue as)) (ts rest : List Turn) (hnoreset : ts.count .reset = 0)
    (hmains : mainsIn ts = as.length) :
    ∃ u, run ts.length { s.issue as with turns := ts ++ rest } = .next u ∧
      GroupCompleted s as s.pending ts rest u :=
  run_completes_group ts { s.issue as with turns := ts ++ rest } as s.pending rest
    ((exec_keeps_inv hs hi).schedule s.port _) hm rfl rfl hnoreset hmains

theorem applyStores_append (buf : Vector Byte 4) (as bs : List Action) :
    applyStores buf (as ++ bs) = applyStores (applyStores buf as) bs :=
  List.foldl_append

theorem sleepsOf_append (as bs : List Action) : sleepsOf (as ++ bs) = sleepsOf as ++ sleepsOf bs :=
  List.filterMap_append

/-! CLEAR. -/

theorem exec_clear (s : State) (hm : s.mode = .running) :
    exec .clear s = .next (s.issue (clearActions Config.clearOrder.order)) :=
  State.whenRunning_running s hm _ _

/-- The slots written are blank and the others as before, in whatever order. -/
theorem getElem_applyStores_clearActions (order : List Position) (buf : Vector Byte 4) (p : Position) :
    (applyStores buf (clearActions order))[p.toNat] = if p ∈ order then 0x00#8 else buf[p.toNat] := by
  induction order generalizing buf with
  | nil => rfl
  | cons q order ih =>
    have hfirst : applyStores buf (clearActions (q :: order)) =
        applyStores (buf.set q.toNat 0x00#8) (clearActions order) := rfl
    rw [hfirst, ih]
    by_cases hp : p = q
    · simp [hp]
    · have hne : q.toNat ≠ p.toNat := fun h => hp (BitVec.eq_of_toNat_eq h.symm)
      simp [hp, Vector.getElem_set_ne, hne]

theorem applyStores_clearActions {order : List Position} (hperm : order.Perm [0, 1, 2, 3]) (buf : Vector Byte 4) :
    applyStores buf (clearActions order) = #v[0, 0, 0, 0] := by
  refine Vector.ext (ys := Vector.replicate 4 0x00#8) fun i hi => ?_
  obtain ⟨p, rfl⟩ : ∃ p : Position, p.toNat = i := ⟨BitVec.ofNat 2 i, Nat.mod_eq_of_lt hi⟩
  have hmem : p ∈ order := hperm.mem_iff.mpr (by revert p; decide)
  rw [getElem_applyStores_clearActions, if_pos hmem, Vector.getElem_replicate]

/-- Settles O14: CLEAR_ORDER is the order, and a permutation leaves no slot out. -/
theorem clearBlanksTheBuffer : Obligations.ClearBlanksTheBuffer := by
  intro s hs hm
  have hissue := exec_clear s hm
  refine ⟨Config.clearOrder.order, Config.clearOrder.perm, hissue, fun ts rest hnoreset hmains => ?_⟩
  have hlength : (clearActions Config.clearOrder.order).length = 4 := by
    rw [clearActions, List.length_map]
    exact Config.clearOrder.perm.length_eq
  obtain ⟨u, hrun, hbuf, hcur, -, hmode, hcfg, -, -, hpending, -⟩ :=
    run_completes_issued hs hm hissue ts rest hnoreset (hmains.trans hlength.symm)
  exact ⟨u, hrun, hbuf.trans (applyStores_clearActions Config.clearOrder.perm s.buf), hcur, hcfg, hmode, hpending⟩

/-! SETSTRING. -/

theorem exec_setstring_tooShort (s : State) {text : List Byte} (hm : s.mode = .running) (h : text.length < 4) :
    exec (.setstring text) s = .refused .textTooShort := by
  simp only [exec, execSetstring, State.whenRunning_running s hm, (setstringActions_none text).mpr h]

/-- Settles O15: the two refusals, and the expansion issued. -/
theorem setstringIssuesFourSlotWrites : Obligations.SetstringIssuesFourSlotWrites :=
  fun s => ⟨fun _ hm => State.whenRunning_unconfigured s hm _ _, fun _ => exec_setstring_tooShort s,
    exec_setstring s⟩

/-- Settles O16: the four writes of the window, under any schedule. -/
theorem setstringFillsTheBufferBackToFront : Obligations.SetstringFillsTheBufferBackToFront := by
  intro s t a b c d more hs hm ht ts rest hnoreset hmains
  have hissue := exec_setstring s a b c d more hm
  obtain rfl : s.issue (windowActions a b c d) = t := Host.Outcome.next.inj (hissue.symm.trans ht)
  obtain ⟨u, hrun, hbuf, hcur, -, hmode, hcfg, -, -, hpending, -⟩ :=
    run_completes_issued hs hm hissue ts rest hnoreset hmains
  exact ⟨u, hrun, hbuf.trans (applyStores_windowActions s.buf a b c d), hcur, hpending, hmode, hcfg⟩

end Sys2Proof.Machine
end

section
/-! SUPPORT. SCROLL (44_text_renderer.md R114 to R117): its loop written out as one window and one SLEEP per step, its
operand limits, and what it leaves whatever TICKs fall among its actions. -/

namespace Sys2Proof.Machine

open Sys2Proof

/-! The loop, step by step. -/

/-- The actions of n steps of SCROLL from an offset on: at each the window there and one SLEEP (R114). -/
def scrollWindows (text : List Byte) (ms stride offset n : Nat) : List Action :=
  (List.range n).flatMap fun k => windowAt text (offset + k * stride) ++ [.sleep ms]

theorem scrollWindows_succ (text : List Byte) (ms stride offset n : Nat) :
    scrollWindows text ms stride offset (n + 1) =
      windowAt text offset ++ .sleep ms :: scrollWindows text ms stride (offset + stride) n := by
  have hoffset (k : Nat) : offset + (k + 1) * stride = offset + stride + k * stride := by
    rw [Nat.succ_mul, Nat.add_comm _ stride, Nat.add_assoc]
  simp [scrollWindows, List.range_succ_eq_map, List.flatMap_map, hoffset]

theorem scrollWindows_one (text : List Byte) (ms stride offset : Nat) :
    scrollWindows text ms stride offset 1 = windowAt text offset ++ [.sleep ms] :=
  scrollWindows_succ text ms stride offset 0

/-- The last step comes after the others. -/
theorem scrollWindows_succ_last (text : List Byte) (ms stride offset n : Nat) :
    scrollWindows text ms stride offset (n + 1) =
      scrollWindows text ms stride offset n ++ (windowAt text (offset + n * stride) ++ [.sleep ms]) := by
  simp [scrollWindows, List.range_succ]

theorem windowAt_drop (text : List Byte) (offset : Nat) : windowAt (text.drop offset) 0 = windowAt text offset := by
  simp [windowAt, List.getD_eq_getElem?_getD]

/-- A text of four bytes or more has a window, at its start (R111). -/
theorem setstringActions_of_le {text : List Byte} (h : 4 ≤ text.length) :
    setstringActions text = some (windowAt text 0) := by
  match text with
  | [] | [_] | [_, _] | [_, _, _] => simp at h
  | _ :: _ :: _ :: _ :: _ => rfl

/-- Where four bytes are left, the window at the offset is a SETSTRING's (R111). -/
theorem setstringActions_drop {text : List Byte} {offset : Nat} (h : offset + 4 ≤ text.length) :
    setstringActions (text.drop offset) = some (windowAt text offset) := by
  rw [setstringActions_of_le (by rw [List.length_drop]; omega), windowAt_drop]

theorem scrollSteps_short {len : Nat} (stride : Nat) (h : len < 4) : scrollSteps len stride = 0 := if_pos h

theorem scrollSteps_of_le {len : Nat} (stride : Nat) (h : 4 ≤ len) :
    scrollSteps len stride = (len - 4) / stride + 1 := if_neg (Nat.not_lt.mpr h)

/-- One step, and the steps of the text without the stride's bytes (R115). -/
theorem scrollSteps_succ {len stride : Nat} (hstride : 1 ≤ stride) (h : 4 ≤ len) :
    scrollSteps len stride = scrollSteps (len - stride) stride + 1 := by
  rw [scrollSteps_of_le stride h]
  by_cases hrest : len - stride < 4
  · rw [scrollSteps_short stride hrest, Nat.div_eq_of_lt (by omega)]
  · rw [scrollSteps_of_le stride (by omega), Nat.sub_right_comm, ← Nat.div_eq_sub_div hstride (by omega)]

/-- With fuel for the bytes that are left, the loop does all its steps: by induction on the fuel. -/
theorem scrollFrom_eq {text : List Byte} {stride : Nat} (ms : Nat) (hstride : 1 ≤ stride) (fuel offset : Nat)
    (hfuel : text.length ≤ fuel + offset) :
    scrollFrom text ms stride fuel offset =
      scrollWindows text ms stride offset (scrollSteps (text.length - offset) stride) := by
  induction fuel generalizing offset with
  | zero =>
    rw [scrollSteps_short stride (by omega)]
    rfl
  | succ fuel ih =>
    by_cases hwindow : offset + 4 ≤ text.length
    · rw [scrollFrom, setstringActions_drop hwindow, scrollSteps_succ hstride (by omega), scrollWindows_succ,
        Nat.sub_sub, ← ih (offset + stride) (by omega)]
    · have hnone : setstringActions (text.drop offset) = none := by
        rw [setstringActions_none, List.length_drop]
        omega
      rw [scrollFrom, hnone, scrollSteps_short stride (by omega)]
      rfl

theorem scrollActions_eq (text : List Byte) (ms : Nat) {stride : Nat} (hstride : 1 ≤ stride) :
    scrollActions text ms stride = scrollWindows text ms stride 0 (scrollSteps text.length stride) :=
  scrollFrom_eq ms hstride text.length 0 (Nat.le_refl _)

/-! SCROLL issued, and its operand limits (R117). -/

theorem exec_scroll (s : State) (text : List Byte) (delay : Nat) {stride : Nat} (hm : s.mode = .running)
    (hstride : 1 ≤ stride) :
    exec (.scroll text delay stride) s =
      .next (s.issue (scrollWindows text delay stride 0 (scrollSteps text.length stride))) := by
  have hlegal : ¬ ((stride : Int) < 1 ∨ (delay : Int) < 0) := by omega
  rw [← scrollActions_eq text delay hstride]
  exact (State.whenRunning_running s hm _ _).trans (if_neg hlegal)

theorem exec_scroll_badOperand (s : State) (text : List Byte) {delay stride : Int} (hm : s.mode = .running)
    (h : stride < 1 ∨ delay < 0) : exec (.scroll text delay stride) s = .refused .badScrollOperand :=
  (State.whenRunning_running s hm _ _).trans (if_pos h)

/-- Settles O18: the loop written out, from offset 0. -/
theorem scrollIssuesOneWindowAndOneSleepPerStep : Obligations.ScrollIssuesOneWindowAndOneSleepPerStep := by
  intro s text delay stride hm hstride
  rw [exec_scroll s text delay hm hstride]
  simp only [State.issue, scrollWindows, Nat.zero_add]

/-- Every SLEEP of SCROLL is of its delay. -/
theorem eq_of_sleep_mem_scrollWindows {text : List Byte} {ms ms' stride offset n : Nat}
    (h : Action.sleep ms' ∈ scrollWindows text ms stride offset n) : ms' = ms := by
  obtain ⟨k, -, hk⟩ := List.mem_flatMap.mp h
  simpa [windowAt] using hk

/-- Settles O20: the refusal, a delay of 0 in every SLEEP, and the one step at offset 0. -/
theorem scrollOperandLimits : Obligations.ScrollOperandLimits := by
  intro s text hm
  refine ⟨fun delay stride h => exec_scroll_badOperand s text hm h, fun stride hstride => ?zeroDelay,
    fun delay stride hlen hlong => ?longStride⟩
  case zeroDelay =>
    obtain ⟨n, rfl⟩ := Int.eq_ofNat_of_zero_le (by omega : 0 ≤ stride)
    exact ⟨_, _, exec_scroll s text 0 hm (by omega), rfl, fun _ => eq_of_sleep_mem_scrollWindows⟩
  case longStride =>
    have hone : scrollSteps text.length stride = 1 := by
      rw [scrollSteps_of_le stride hlen, Nat.div_eq_of_lt (by omega)]
    rw [exec_scroll s text delay hm (by omega), hone, scrollWindows_one]
    rfl

/-! What SCROLL leaves (R115, R116). -/

theorem length_scrollWindows (text : List Byte) (ms stride offset n : Nat) :
    (scrollWindows text ms stride offset n).length = 5 * n := by
  simp [scrollWindows, windowAt, Nat.mul_comm]

theorem sleepsOf_scrollWindows (text : List Byte) (ms stride offset n : Nat) :
    sleepsOf (scrollWindows text ms stride offset n) = List.replicate n (.sleep ms) := by
  induction n with
  | zero => rfl
  | succ n ih =>
    have hlast : sleepsOf (windowAt text (offset + n * stride) ++ [.sleep ms]) = [.sleep ms] := rfl
    rw [scrollWindows_succ_last, sleepsOf_append, ih, hlast, List.replicate_succ']

/-- The window of the last step stands in the buffer, its first byte in slot 3 (R110). -/
theorem applyStores_scrollWindows_succ (buf : Vector Byte 4) (text : List Byte) (ms stride offset n : Nat) :
    applyStores buf (scrollWindows text ms stride offset (n + 1)) =
      #v[fontIndex (text.getD (offset + n * stride + 3) 0), fontIndex (text.getD (offset + n * stride + 2) 0),
        fontIndex (text.getD (offset + n * stride + 1) 0), fontIndex (text.getD (offset + n * stride) 0)] := by
  rw [scrollWindows_succ_last, applyStores_append, applyStores_append]
  exact applyStores_windowActions _ _ _ _ _

theorem State.slot_of_buf_eq_window {u : State} {text : List Byte} {offset : Nat}
    (h : u.buf = #v[fontIndex (text.getD (offset + 3) 0), fontIndex (text.getD (offset + 2) 0),
      fontIndex (text.getD (offset + 1) 0), fontIndex (text.getD offset 0)]) (k : Fin 4) :
    u.slot (BitVec.ofNat 2 (3 - k.val)) = fontIndex (text.getD (offset + k.val) 0) := by
  fin_cases k <;> simp [State.slot, h]

/-- Settles O19: the actions of the steps under any schedule, the last window written last. -/
theorem scrollLeavesTheLastWindow : Obligations.ScrollLeavesTheLastWindow := by
  intro s t text delay stride hs hm hstride hlen ht ts rest hnoreset hmains
  have hissue := exec_scroll s text delay hm hstride
  obtain rfl := Host.Outcome.next.inj (hissue.symm.trans ht)
  obtain ⟨u, hrun, hbuf, hcur, hout, hmode, -, -, -, hpending, -⟩ :=
    run_completes_issued hs hm hissue ts rest hnoreset (hmains.trans (length_scrollWindows _ _ _ _ _).symm)
  rw [sleepsOf_scrollWindows] at hout
  rw [scrollSteps_of_le stride hlen, applyStores_scrollWindows_succ, Nat.zero_add, Nat.mul_comm] at hbuf
  exact ⟨u, hrun, hpending, State.slot_of_buf_eq_window hbuf, hout, hcur, hmode⟩

end Sys2Proof.Machine
end

section
/-! SUPPORT. What a running block keeps, and that it goes on (60_exceptions.md R121, R125, R132, R133, R139): only a
reset changes the configuration, and no agent's turn stops a block that has no command to refuse. -/

namespace Sys2Proof.Machine

open Sys2Proof

/-! What only reset changes. -/

/-- From `s` to `t` the mode, CFG, the timer's attachment, whether the lines are driven, and the number of resets are
the same. -/
def KeepsConfiguration (s t : State) : Prop :=
  t.mode = s.mode ∧ t.cfg = s.cfg ∧ t.timer = s.timer ∧ t.lines.isSome = s.lines.isSome ∧ t.resets = s.resets

theorem State.refresh_lines_isSome (s : State) (x : Byte) : (s.refresh x).lines.isSome = s.lines.isSome :=
  State.sendFrame_lines_isSome (s.recordLookup x) x s.cur

/-- No operation of a running block changes the configuration; CONFIGURE is refused (R78). -/
theorem exec_keepsConfiguration {i : Instr} {s t : State} (hm : s.mode = .running) (h : exec i s = .next t) :
    KeepsConfiguration s t := by
  cases i with
  | configure l c d anode =>
    obtain ⟨hu, -, -⟩ := execConfigure_next h
    rw [hm] at hu
    cases hu
  | setchar p ch =>
    obtain ⟨-, q, -, rfl⟩ := execSetchar_next h
    exact ⟨rfl, rfl, rfl, rfl, rfl⟩
  | clear =>
    obtain ⟨-, rfl⟩ := execClear_next h
    exact ⟨rfl, rfl, rfl, rfl, rfl⟩
  | tick =>
    obtain ⟨-, x, -, rfl⟩ := execTick_next h
    exact ⟨State.refresh_mode s x, State.refresh_cfg s x, State.refresh_timer s x, State.refresh_lines_isSome s x,
      State.refresh_resets s x⟩
  | setstring text =>
    obtain ⟨-, as, -, rfl⟩ := execSetstring_next h
    exact ⟨rfl, rfl, rfl, rfl, rfl⟩
  | scroll text delay stride =>
    obtain ⟨-, -, -, rfl⟩ := execScroll_next h
    exact ⟨rfl, rfl, rfl, rfl, rfl⟩
  | lookup code =>
    obtain ⟨j, x, -, -, rfl⟩ := execLookup_next h
    exact ⟨rfl, rfl, rfl, rfl, rfl⟩
  | render x p =>
    obtain ⟨-, q, -, rfl⟩ := execRender_next h
    exact ⟨State.sendFrame_mode s x q, State.sendFrame_cfg s x q, State.sendFrame_timer s x q,
      State.sendFrame_lines_isSome s x q, State.sendFrame_resets s x q⟩
  | shiftout d c v =>
    obtain ⟨-, rfl⟩ := execShiftout_next h
    exact ⟨State.shiftOut_mode s d c v, State.shiftOut_cfg s d c v, State.shiftOut_timer s d c v,
      State.emit_lines_isSome s _, State.shiftOut_resets s d c v⟩

theorem State.perform_keepsConfiguration (s : State) (a : Action) : KeepsConfiguration s (s.perform a) := by
  cases a with
  | store p v => exact ⟨rfl, rfl, rfl, rfl, rfl⟩
  | sleep ms => exact ⟨rfl, rfl, rfl, rfl, rfl⟩

theorem mainStep_keepsConfiguration {s t : State} (hm : s.mode = .running) (h : mainStep s = .next t) :
    KeepsConfiguration s t := by
  rcases mainStep_cases h with ⟨a, rest, -, rfl⟩ | ⟨c, cs, i, -, -, -, hi⟩ | ⟨-, -, -, ht⟩ | ⟨-, -, -, rfl⟩
  · exact State.perform_keepsConfiguration { s with pending := rest } a
  · exact exec_keepsConfiguration (s := { s with port := cs }) hm hi
  · exact exec_keepsConfiguration (i := .tick) hm ht
  · exact ⟨rfl, rfl, rfl, rfl, rfl⟩

theorem timerStep_keepsConfiguration {s t : State} (hm : s.mode = .running) (h : timerStep s = .next t) :
    KeepsConfiguration s t := by
  rcases timerStep_cases h with ⟨-, ht⟩ | ⟨-, rfl⟩
  · exact exec_keepsConfiguration (i := .tick) hm ht
  · exact ⟨rfl, rfl, rfl, rfl, rfl⟩

/-- Settles O43, by the agent whose turn it is; a reset is excluded by the hypothesis. -/
theorem configurationIsFixedUntilReset : Obligations.ConfigurationIsFixedUntilReset := by
  intro s t hm hnoreset h
  have hkept : KeepsConfiguration s t := by
    rcases step_cases h with ⟨ts, -, hmain⟩ | ⟨ts, -, htimer⟩ | ⟨ts, hr, -⟩
    · exact mainStep_keepsConfiguration (s := { s with turns := ts }) hm hmain
    · exact timerStep_keepsConfiguration (s := { s with turns := ts }) hm htimer
    · exact absurd (by rw [hr]; rfl) hnoreset
  obtain ⟨hmode, hrest⟩ := hkept
  exact ⟨hmode.trans hm, hrest⟩

/-! Turns that complete. -/

/-- Before CONFIGURE no timer is attached (R101). -/
theorem State.Inv.timerAttached_unconfigured {s : State} (hs : s.Inv) (hm : s.mode = .unconfigured) :
    s.timerAttached = false := by
  simp [State.timerAttached, hs.timer, hm]

/-- The timer's turn completes: a TICK while running, nothing before CONFIGURE. -/
theorem timerStep_completes {s : State} (hs : s.Inv) : ∃ t, timerStep s = .next t := by
  cases hm : s.mode with
  | running =>
    obtain ⟨x, hx⟩ := timerStep_refresh hs hm
    exact ⟨s.refresh x, hx⟩
  | unconfigured => exact ⟨s, by rw [timerStep, hs.timerAttached_unconfigured hm]; rfl⟩

/-- With nothing left to do for the host, the main context's turn is as the timer's (log 23). -/
theorem mainStep_idle_eq_timerStep (s : State) (hp : s.pending = []) (hport : s.port = []) :
    mainStep s = timerStep s :=
  mainStep_idle s hp hport

/-- The main context's turn completes when no command is waiting. -/
theorem mainStep_completes {s : State} (hs : s.Inv) (hport : s.port = []) : ∃ t, mainStep s = .next t := by
  cases hp : s.pending with
  | nil =>
    rw [mainStep_idle_eq_timerStep s hp hport]
    exact timerStep_completes hs
  | cons a rest => exact ⟨_, mainStep_act s a rest hp⟩

/-- Settles O46, by the turns. -/
theorem blockWithoutCommandsNeverStops : Obligations.BlockWithoutCommandsNeverStops := by
  intro s hs hport
  cases ht : s.turns with
  | nil =>
    rw [step_no_turns s ht]
    exact mainStep_completes hs hport
  | cons turn ts =>
    cases turn with
    | main =>
      rw [step_main s ts ht]
      exact mainStep_completes (hs.schedule s.port ts) hport
    | tick =>
      rw [step_tick s ts ht]
      exact timerStep_completes (hs.schedule s.port ts)
    | reset => exact ⟨_, step_reset s ts ht⟩

/-! The timer's turn in the midst of the main context's work (R132, R133). -/

/-- Settles O41: the turn is TICK's body, which has none of these fields to change. -/
theorem timerPreemptsTheMainContext : Obligations.TimerPreemptsTheMainContext := by
  intro s ts hs hm ht
  have htick : step s = exec .tick { s with turns := ts } :=
    (step_tick s ts ht).trans (if_pos (hs.timerAttached hm))
  have hrefresh := step_tick_patternAt hs hm ht
  rw [State.refresh_eq] at hrefresh
  exact ⟨htick, _, hrefresh, rfl, rfl, rfl, rfl, rfl, rfl, rfl, rfl⟩

/-! The host's texts (R63, R110, R114). -/

theorem exec_setstring_of_le (s : State) {text : List Byte} (hm : s.mode = .running) (h : 4 ≤ text.length) :
    exec (.setstring text) s = .next (s.issue (windowAt text 0)) := by
  simp only [exec, execSetstring, State.whenRunning_running s hm, setstringActions_of_le h]

/-- Settles O47: one slot write, one window, and SCROLL's loop with its default operands (R58). -/
theorem noTextStopsTheBlock : Obligations.NoTextStopsTheBlock :=
  fun s hm => ⟨fun p ch => ⟨_, exec_setchar s p ch hm⟩, fun _ h => ⟨_, exec_setstring_of_le s hm h⟩,
    fun text => ⟨_, exec_scroll s text 200 (stride := 1) hm (Nat.le_refl 1)⟩⟩

end Sys2Proof.Machine
end

section
/-! SUPPORT. Reset and boot (70_reset_and_hazards.md R139, R141, R142, R146, R162): what the reset input leaves, the
stillness of a block that is not configured, the boot, and the refresh of a block whose host is silent. -/

namespace Sys2Proof.Machine

open Sys2Proof

/-! The reset input. -/

/-- Settles O3: the fields of the state the reset input leaves. -/
theorem resetInputReturnsToUnconfigured : Obligations.ResetInputReturnsToUnconfigured :=
  fun s ts ht => ⟨_, step_reset s ts ht, rfl, rfl, rfl, rfl, rfl, rfl, rfl, rfl⟩

/-! Before CONFIGURE. -/

theorem timerStep_unconfigured {s : State} (hs : s.Inv) (hm : s.mode = .unconfigured) : timerStep s = .next s :=
  if_neg (by simp [hs.timerAttached_unconfigured hm])

/-- With no operation in progress (R142) and no command, the main context has nothing to do either. -/
theorem mainStep_unconfigured {s : State} (hs : s.Inv) (hm : s.mode = .unconfigured) (hport : s.port = []) :
    mainStep s = .next s := by
  obtain ⟨-, hp⟩ := hs.quiet hm
  rw [mainStep_idle_eq_timerStep s hp hport, timerStep_unconfigured hs hm]

/-- Settles O4, by the turns; a reset is excluded by the hypothesis. -/
theorem unconfiguredBlockDoesNothing : Obligations.UnconfiguredBlockDoesNothing := by
  intro s hs hm hport hnoreset
  have hmain (ts : List Turn) : mainStep { s with turns := ts } = .next { s with turns := ts } :=
    mainStep_unconfigured (hs.schedule s.port ts) hm hport
  cases ht : s.turns with
  | nil => exact (step_mainTurn s [] (.inr ⟨ht, rfl⟩)).trans (hmain [])
  | cons turn ts =>
    cases turn with
    | main => exact (step_mainTurn s ts (.inl ht)).trans (hmain ts)
    | tick => exact (step_tick s ts ht).trans (timerStep_unconfigured (hs.schedule s.port ts) hm)
    | reset => exact absurd (by rw [ht]; rfl) hnoreset

/-! CONFIGURE and the values before it. -/

/-- The state CONFIGURE leaves keeps nothing of BUF, CUR and CFG (R74). -/
theorem State.configured_powerUp (s : State) (l c d : PinId) (anode : Bool) (buf : Vector Byte 4) (cur : Position)
    (cfg : DisplayConfig) :
    State.configured { s with buf := buf, cur := cur, cfg := cfg } l c d anode = s.configured l c d anode := rfl

/-- Settles O7: neither CONFIGURE's two guards nor the state it leaves look at the three registers. -/
theorem configureForgetsThePowerUpValues : Obligations.ConfigureForgetsThePowerUpValues := by
  intro s l c d anode buf cur cfg
  have hguard : State.isRunning { s with buf := buf, cur := cur, cfg := cfg } = s.isRunning := rfl
  simp only [exec, execConfigure, State.configured_eq, hguard, State.configured_powerUp]

/-! The refresh with the host silent (log 23). -/

/-- With no turn given and nothing to do for the host, a running block's step is TICK's body on the pattern of the slot
at the cursor. -/
theorem step_idle_patternAt {s : State} (hs : s.Inv) (hm : s.mode = .running) (hp : s.pending = [])
    (hport : s.port = []) (ht : s.turns = []) : step s = .next (s.refresh (s.patternAt s.cur)) := by
  rw [step_no_turns s ht, mainStep_idle_eq_timerStep s hp hport]
  exact (if_pos (hs.timerAttached hm)).trans (execTick_eq s hm _ (hs.fontAt_slot hm s.cur))

/-- By induction on the steps, each of which leaves the host silent. -/
theorem run_idle (n : Nat) (s : State) (hs : s.Inv) (hm : s.mode = .running) (hp : s.pending = [])
    (hport : s.port = []) (ht : s.turns = []) :
    ∃ lines chain seen, run n s = .next (s.afterTicks n [] lines chain seen) := by
  induction n generalizing s with
  | zero => exact run_ticks 0 s [] hs hm ht
  | succ n ih =>
    have hstep := step_idle_patternAt hs hm hp hport ht
    rw [State.refresh_eq] at hstep
    obtain ⟨lines, chain, seen, hrun⟩ := ih _ (stepKeepsTheInvariant s _ hs hstep) hm hp hport ht
    refine ⟨lines, chain, seen, (run_succ_of_next n hstep).trans (hrun.trans ?_)⟩
    rw [State.afterTicks, State.afterTicks, framesFrom_succ, cursor_add_succ, ← List.append_assoc]
    rfl

/-- The cursor reaches a position in as many advances as it is places ahead, modulo 4 (R97). -/
theorem cursor_add_sub (c p : Position) : c + BitVec.ofNat 2 (p - c).toNat = p := by
  rw [BitVec.ofNat_toNat, BitVec.setWidth_eq, BitVec.add_comm, BitVec.sub_add_cancel]

/-- Settles O40: the position is at the cursor after as many TICKs as it is places ahead, and the next TICK sends it. -/
theorem everyPositionRefreshedWithinFourTicks : Obligations.EveryPositionRefreshedWithinFourTicks := by
  intro s p hs hm hp hport ht
  obtain ⟨lines, chain, seen, hrun⟩ := run_idle (p - s.cur).toNat s hs hm hp hport ht
  have hcur : (s.afterTicks (p - s.cur).toNat [] lines chain seen).cur = p := cursor_add_sub s.cur p
  have hstep := step_idle_patternAt (run_keeps_inv hs hrun) hm hp hport rfl
  rw [State.refresh_eq, hcur] at hstep
  exact ⟨_, _, _, (p - s.cur).isLt, hrun, hcur, hstep, rfl, rfl⟩

/-! Boot (R146). -/

/-- Index 0 is the font's blank (R69). -/
theorem State.Inv.patternAt_blank {s : State} (hs : s.Inv) {p : Position} (h : s.slot p = 0x00#8) :
    s.patternAt p = 0x00#8 := by
  obtain ⟨hblank, -⟩ := hs.font
  rw [State.patternAt, h, State.fontAt_of_le s 0x00#8 (Nat.zero_le 64)]
  exact hblank

/-- The four slots of a block just configured are blank (R74). -/
theorem State.configured_slot (s : State) (l c d : PinId) (anode : Bool) (p : Position) :
    (s.configured l c d anode).slot p = 0x00#8 := by
  have hbuf : ∀ q : Position, (#v[0, 0, 0, 0] : Vector Byte 4)[q.toNat] = 0x00#8 := by decide
  exact hbuf p

/-- Four blank frames from position 0 on, written out with their digit-select bytes (R54) and segment bytes (R55). -/
theorem framesFrom_four_blank {cfg : DisplayConfig} {anode : Bool} (hmask : cfg.mask = polarityMask anode) :
    framesFrom cfg (fun _ => 0x00#8) 0 4 =
      if anode then
        frameEvents cfg 0x80#8 0xFF#8 ++ frameEvents cfg 0x40#8 0xFF#8 ++
        frameEvents cfg 0x20#8 0xFF#8 ++ frameEvents cfg 0x10#8 0xFF#8
      else
        frameEvents cfg 0x7F#8 0x00#8 ++ frameEvents cfg 0x3F#8 0x00#8 ++
        frameEvents cfg 0x1F#8 0x00#8 ++ frameEvents cfg 0x0F#8 0x00#8 := by
  simp only [framesFrom_succ, hmask]
  cases anode <;> rfl

/-- Settles O8: the run of four idle steps from the booted state, whose patterns are all blank. -/
theorem bootThenFourBlankFrames : Obligations.BootThenFourBlankFrames := by
  intro s l c d anode hs hm hlc hld hcd hport ht
  have hboot := execConfigure_eq (.pin l) (.pin c) (.pin d) anode s hm ⟨hlc, hld, hcd⟩
  have hinv := hs.configured ⟨hlc, hld, hcd⟩ anode
  obtain ⟨-, hp⟩ := hs.quiet hm
  obtain ⟨lines, chain, seen, hrun⟩ := run_idle 4 (s.configured l c d anode) hinv rfl hp hport ht
  have hblank : (s.configured l c d anode).patternAt = fun _ => 0x00#8 :=
    funext fun p => hinv.patternAt_blank (s.configured_slot l c d anode p)
  refine ⟨s.configured l c d anode, _, hboot, hrun, rfl, rfl, ?_⟩
  rw [State.afterTicks_out, hblank]
  exact congrArg _ (framesFrom_four_blank rfl)

end Sys2Proof.Machine
end
